-- ==== Sys2Proof/Word.lean ====
section
/-! DEFINITION. The word types of DDVE (00_scope.md R7, 20_memory.md R64): the 32-bit word is the unit of every
interface, and a value of the default number format is its IEEE 754 binary32 bit pattern (00_scope.md R6, 30_encoding.md
R92). -/

namespace Sys2Proof

/-- A command, operand or response word: 32 bits, bit 31 most significant (00_scope.md R7). -/
abbrev Word := BitVec 32

/-- A byte of a byte-wide transport (20_memory.md R64). -/
abbrev Byte := BitVec 8

/-- The carrier of the number format that the machine's instance has: binary32 bit patterns. DESIGN CHOICE (log 1): the
carrier and the operations of NUM are a configuration (`NumFormat`, `Config`), and binary32 is the instance the spec gives
as its default (00_scope.md R6, 92_eei_decisions.md D2). -/
abbrev Num32 := BitVec 32

end Sys2Proof
end

