-- ==== Sys2Proof/Syntax.lean ====
section
/-! DEFINITION. The commands of DDVE as syntax: one constructor of `Instr` per row of spec/opcode_table.json
(30_encoding.md R80 to R97). -/

namespace Sys2Proof

/-- The two command ports (00_scope.md R13). -/
inductive Port where
  /-- The audio command stream. -/
  | aud
  /-- The asynchronous control stream. -/
  | ctl
deriving DecidableEq, Repr, Inhabited

/-- The eight drum types, numbered 0 to 7 in this order (30_encoding.md R88). -/
inductive DrumType where
  | kick
  | snare
  | closedHat
  | openHat
  | crash
  | ride
  | clap
  | rim
deriving DecidableEq, Repr, Inhabited

/-- One constructor per row of the opcode table. Operands are the fields of the encoding as bits; an operand that the
second word carries is that whole word. -/
inductive Instr where
  /-- `NOP` (R210). -/
  | nop
  /-- `PREPARE sr, mb` (R84, R211). -/
  | prepare (mb : BitVec 16) (sr : BitVec 32)
  /-- `SETP pid, val` (R85, R213). -/
  | setp (pid : BitVec 6) (val : Word)
  /-- `GETP pid` (R85, R215). -/
  | getp (pid : BitVec 6)
  /-- `SNAP` (R83, R217). -/
  | snap
  /-- `TRIG dt, vel, off` (R86, R110); `off` is the 24-bit field, read as signed by the meaning (R91). -/
  | trig (dt : DrumType) (off : BitVec 24) (vel : Word)
  /-- `RENDER n` (R87, R190). -/
  | render (n : BitVec 16)
  /-- `DBGHIT dt` (R89, R219). -/
  | dbghit (dt : DrumType)
  /-- A word of opcode 8 to 15 (R97): the opcode and the 28 bits that are ignored. -/
  | reserved (op : BitVec 4) (ignored : BitVec 28)
deriving DecidableEq, Repr, Inhabited

end Sys2Proof
end

