-- ==== Sys2Proof/Config.lean ====
section
/-! DEFINITION. What an implementation fixes (00_scope.md R6): the number format `NumFormat`, over any carrier, and the
record `Config` of all twelve parameters, an argument of every operation, so that a claim can quantify over it; and the free
values, opaque constants without a body. The one instance that the machine runs, `Machine.cfg`, is put together in
Machine/Defaults.lean. Nothing here is state (10_state.md R49). -/

namespace Sys2Proof

/-! ### The number format -/

/-- `NUM` (00_scope.md R6, R8, R9; 92_eei_decisions.md D2): a carrier `N` with the primitive operations of the spec's
formulas. The elementary functions stand in `Config`. -/
structure NumFormat (N : Type) where
  /-- `NUM.ofReal` of the literal `n / d`, negative when the first argument is true. -/
  ofRat : Bool → Nat → Nat → N
  /-- `NUM.ofReal(2π)` (41_voice_synthesis.md R146). -/
  twoPi : N
  /-- `NUM(n)` of a natural number. -/
  ofNat : Nat → N
  /-- `NUM.ofBits` (30_encoding.md R92). -/
  ofBits : Word → N
  /-- `NUM.toBits` (R92). -/
  toBits : N → Word
  add : N → N → N
  sub : N → N → N
  mul : N → N → N
  div : N → N → N
  neg : N → N
  abs : N → N
  frac : N → N
  min : N → N → N
  max : N → N → N
  lt : N → N → Bool
  le : N → N → Bool
  /-- Whether a value is a NaN (R10). -/
  isNaN : N → Bool
  /-- Whether a value is the zero of negative sign; false of every value where the format has no such zero. -/
  isMinusZero : N → Bool
  /-- What a result becomes under `FTZ`: zero where it is subnormal, else itself (R6). -/
  flush : N → N

/-- The two byte orders of a byte-wide transport (20_memory.md R64). -/
inductive ByteOrder where
  | little
  | big
deriving DecidableEq, Repr, Inhabited

/-! ### Tables -/

/-- Range and default of one parameter register (10_state.md R38). -/
structure ParamSpec (N : Type) where
  lo : N
  hi : N
  dflt : N
deriving DecidableEq, Repr, Inhabited

/-- The four values that one allocation takes (40_voice_pool.md R114): three phases and a noise seed. -/
structure Draw (N : Type) where
  p0 : N
  p1 : N
  p2 : N
  seed : Word
deriving DecidableEq, Repr, Inhabited

/-- The patch ROM (42_drum_generators.md R170): every constant of the generators, with the names of the spec. -/
structure Rom (N : Type) where
  kFHi : N
  kFLo : N
  kSweepTau : N
  kAmpTau : N
  kClickTau : N
  kThumpG : N
  kSubG : N
  kClickG : N
  sFHi : N
  sFLo : N
  sSweepTau : N
  sBodyTau : N
  sNoiseTau : N
  sCrackTau : N
  sBodyG : N
  sNoiseG : N
  sCrackG : N
  chRatio : N
  chF0 : N
  chTau : N
  chNoiseG : N
  chPartG : N
  ohF0 : N
  ohR1 : N
  ohR2 : N
  ohTau : N
  ohNoiseG : N
  ohPartG : N
  crAtt : N
  crF0 : N
  crF1 : N
  crF2 : N
  crPtau0 : N
  crPtau1 : N
  crPtau2 : N
  crNoiseTau : N
  crPg0 : N
  crPg1 : N
  crPg2 : N
  crNoiseG : N
  rdAtt : N
  rdPingF : N
  rdTailF : N
  rdPingTau : N
  rdTailTau : N
  rdNoiseTau : N
  rdPingG : N
  rdTailG : N
  rdNoiseG : N
  clOn0 : N
  clOn1 : N
  clOn2 : N
  clLimit : N
  clBurstTau : N
  clG : N
  rmRatio : N
  rmF0 : N
  rmTau : N
  rmTickTau : N
  rmPartG : N
  rmTickG : N
deriving DecidableEq, Repr, Inhabited

/-! ### The configuration -/

/-- The parameters of 00_scope.md R6, over a carrier of `NUM`. -/
structure Config (N : Type) where
  /-- `NUM`. -/
  num : NumFormat N
  /-- `FTZ`: subnormal results of arithmetic are flushed to zero. -/
  ftz : Bool
  /-- `NUM.tanh`. -/
  tanh : N → N
  /-- `NUM.sin`. -/
  sin : N → N
  /-- `NUM.exp`. -/
  exp : N → N
  /-- `NUM.exp2`. -/
  exp2 : N → N
  /-- `NUM.sqrt`. -/
  sqrt : N → N
  /-- `PSPEC`. -/
  pspec : Fin 46 → ParamSpec N
  /-- The patch ROM. -/
  rom : Rom N
  /-- `VTONE_COEF`. -/
  vtoneCoef : N → N
  /-- `VTONE_MIX`. -/
  vtoneMix : N → N
  /-- `MTONE_COEF_L`. -/
  mtoneCoefL : N → N
  /-- `MTONE_COEF_R`. -/
  mtoneCoefR : N → N
  /-- `EPS_DECAY`. -/
  epsDecay : N
  /-- `EPS_HAT`. -/
  epsHat : N
  /-- `EPS_TAU`. -/
  epsTau : N
  /-- `ALLOC_DRAW`: the draw of the n-th allocation since power-on. -/
  draw : Nat → Draw N
  /-- Whether a velocity operand of -0 is stored as -0 (95_test_vectors.md V16 leaves the sign of that zero open). -/
  velKeepsMinusZero : Bool
  /-- `SNAP_ATOMIC`. -/
  snapAtomic : Bool
  /-- Whether the j-th CTL command waiting behind the n-th SNAP executes inside it (20_memory.md R70). -/
  snapOverlap : Nat → Nat → Bool
  /-- After how many of the overlapping CTL commands the n-th SNAP reads register `id` (20_memory.md R70). -/
  snapRead : Nat → Nat → Nat
  /-- `NCH`: the number of output channels. -/
  nch : Nat
  /-- `CMD_BYTE_ORDER`: the byte order of a command word on a byte transport. -/
  cmdByteOrder : ByteOrder

/-! ### The operations of a configuration: those of its format, subnormal results flushed under its `FTZ` -/

section
variable {N : Type} (c : Config N)

def Config.flush (x : N) : N := if c.ftz then c.num.flush x else x
def Config.add (x y : N) : N := c.flush (c.num.add x y)
def Config.sub (x y : N) : N := c.flush (c.num.sub x y)
def Config.mul (x y : N) : N := c.flush (c.num.mul x y)
def Config.div (x y : N) : N := c.flush (c.num.div x y)
def Config.frac (x : N) : N := c.flush (c.num.frac x)
def Config.ofNat (n : Nat) : N := c.flush (c.num.ofNat n)

/-- A literal `n / d` of a formula (00_scope.md R8). -/
def Config.lit (n d : Nat) : N := c.num.ofRat false n d

/-- The literals 0 and 1. -/
def Config.zero : N := c.lit 0 1
def Config.one : N := c.lit 1 1

/-- `clampN(x, lo, hi)` (R10): a NaN goes to `lo`. -/
def Config.clamp (x lo hi : N) : N := if c.num.isNaN x then lo else c.num.max lo (c.num.min x hi)

end

/-! ### Free values: no body, so nothing can be proved of which value they are. Machine/Defaults.lean keeps each inside
the limits that the spec states. -/

/-- Free shape of `NUM.tanh` on magnitudes: where it rises and to what (00_scope.md R12; log 3). -/
opaque Config.tanhFree : Nat → Option Nat

/-- `NUM.exp` before its bound is applied (R12; log 3). -/
opaque Config.expFree : Num32 → Num32

/-- `NUM.sin` before its bound is applied (R12; log 3). -/
opaque Config.sinFree : Num32 → Num32

/-- `NUM.exp2` before its bound is applied (R12; log 3). -/
opaque Config.exp2Free : Num32 → Num32

/-- `NUM.sqrt` before its bound is applied (R12; log 3). -/
opaque Config.sqrtFree : Num32 → Num32

/-- The open constants of the patch ROM, numbered in the order of `Rom` (42_drum_generators.md R170; log 6). -/
opaque Config.romFree : Nat → Num32

/-- The allocation draw (40_voice_pool.md R114; log 10). -/
opaque Config.drawFree : Nat → Draw Num32

/-- The sign of a zero velocity (95_test_vectors.md V16; log 11). -/
opaque Config.velKeepsMinusZeroFree : Bool

/-- Which CTL commands fall inside a SNAP (20_memory.md R70, 93 U12; log 14). -/
opaque Config.snapOverlapFree : Nat → Nat → Bool

/-- When a SNAP reads each register (20_memory.md R70, 93 U12; log 14). -/
opaque Config.snapReadFree : Nat → Nat → Nat

end Sys2Proof
end

