-- ==== Sys2Proof/Machine/Num.lean ====
section
/-! DEFINITION. The default number format: IEEE 754 binary32, round to nearest even (00_scope.md R6, R8;
92_eei_decisions.md D2; log 1, 2). A finite value is read as an integer number of units of 2^-149, computed with exactly, and rounded once. -/

namespace Sys2Proof

/-! ### Fields and classes -/

/-- Exponent and fraction bits: the magnitude, on which the order of the values is the order of the naturals. -/
def F32.mag (x : Num32) : Nat := x.toNat % 2 ^ 31

/-- The magnitude of the infinities. -/
def F32.infMag : Nat := 0x7F800000

def F32.isNaN (x : Num32) : Bool := F32.infMag < F32.mag x
def F32.isInf (x : Num32) : Bool := F32.mag x == F32.infMag
def F32.isFinite (x : Num32) : Bool := F32.mag x < F32.infMag
def F32.isZero (x : Num32) : Bool := F32.mag x == 0

/-- The NaN that an operation produces, and the pattern `NUM.toBits` gives every NaN (30_encoding.md R92; log 2). -/
def F32.nan : Num32 := 0x7FC00000

/-- The value of sign `neg` and magnitude `m`. -/
def F32.pack (neg : Bool) (m : Nat) : Num32 := BitVec.ofNat 32 (if neg then 2 ^ 31 + m else m)

/-- The units of 2^-149 in a finite magnitude. -/
def F32.magUnits (m : Nat) : Nat :=
  if m / 2 ^ 23 = 0 then m % 2 ^ 23 else (2 ^ 23 + m % 2 ^ 23) * 2 ^ (m / 2 ^ 23 - 1)

/-- The units of 2^-149 in a finite value, signed. -/
def F32.units (x : Num32) : Int :=
  if x.msb then - (F32.magUnits (F32.mag x) : Int) else (F32.magUnits (F32.mag x) : Int)

/-! ### Rounding -/

/-- `n / m` rounded to the nearest integer, a tie to the even one. -/
def F32.rne (n m : Nat) : Nat :=
  if 2 * (n % m) < m then n / m
  else if m < 2 * (n % m) then n / m + 1
  else n / m + n / m % 2

/-- The magnitude nearest to `n / d` units, exponent unbounded. -/
def F32.roundMag (n d : Nat) : Nat :=
  let e := (n / d).log2 - 23
  e * 2 ^ 23 + F32.rne n (d * 2 ^ e)

/-- The value nearest to `n / d` units with sign `neg`; too large goes to infinity. -/
def F32.round (neg : Bool) (n d : Nat) : Num32 := F32.pack neg (min (F32.roundMag n d) F32.infMag)

/-- Flushing to zero (00_scope.md R6, `FTZ`). DESIGN CHOICE (log 4): a result counts as subnormal when it is so after
rounding, and the zero keeps the sign of the result; the spec names neither. -/
def F32.flush (x : Num32) : Num32 := if F32.mag x < 2 ^ 23 then F32.pack x.msb 0 else x

/-! ### Operations, each rounded once (00_scope.md R8) -/

def F32.neg (x : Num32) : Num32 := x ^^^ 0x80000000
def F32.abs (x : Num32) : Num32 := F32.pack false (F32.mag x)

def F32.add (x y : Num32) : Num32 :=
  if F32.isNaN x || F32.isNaN y then F32.nan
  else if F32.isInf x then (if F32.isInf y && x.msb != y.msb then F32.nan else x)
  else if F32.isInf y then y
  else
    let z := F32.units x + F32.units y
    if z = 0 then F32.pack (x.msb && y.msb) 0
    else F32.round (decide (z < 0)) z.natAbs 1

def F32.sub (x y : Num32) : Num32 := F32.add x (F32.neg y)

def F32.mul (x y : Num32) : Num32 :=
  if F32.isNaN x || F32.isNaN y then F32.nan
  else if F32.isInf x || F32.isInf y then
    if F32.isZero x || F32.isZero y then F32.nan else F32.pack (x.msb != y.msb) F32.infMag
  else F32.round (x.msb != y.msb) (F32.magUnits (F32.mag x) * F32.magUnits (F32.mag y)) (2 ^ 149)

def F32.div (x y : Num32) : Num32 :=
  if F32.isNaN x || F32.isNaN y then F32.nan
  else if F32.isInf x then (if F32.isInf y then F32.nan else F32.pack (x.msb != y.msb) F32.infMag)
  else if F32.isInf y then F32.pack (x.msb != y.msb) 0
  else if F32.isZero y then
    if F32.isZero x then F32.nan else F32.pack (x.msb != y.msb) F32.infMag
  else F32.round (x.msb != y.msb) (F32.magUnits (F32.mag x) * 2 ^ 149) (F32.magUnits (F32.mag y))

/-- The natural number `n` (`NUM(n)` of R9). -/
def F32.ofNat (n : Nat) : Num32 := F32.round false (n * 2 ^ 149) 1

/-- A literal `n / d` of a formula (`NUM.ofReal`, R8), and its negative. -/
def F32.lit (n d : Nat) : Num32 := F32.round false (n * 2 ^ 149) d
def F32.litNeg (n d : Nat) : Num32 := F32.round true (n * 2 ^ 149) d

/-- `x - floor(x)` (R9). An infinity or a NaN gives a NaN, as the subtraction does (log 2). -/
def F32.frac (x : Num32) : Num32 :=
  if F32.isFinite x then F32.round false (F32.units x % 2 ^ 149).toNat 1 else F32.nan

/-! ### Comparison -/

/-- A number whose order is the order of the values that are not NaN; both zeros have the key 0. -/
def F32.key (x : Num32) : Int := if x.msb then - (F32.mag x : Int) else (F32.mag x : Int)

def F32.lt (x y : Num32) : Bool :=
  !F32.isNaN x && !F32.isNaN y && decide (F32.key x < F32.key y)

def F32.le (x y : Num32) : Bool :=
  !F32.isNaN x && !F32.isNaN y && decide (F32.key x ≤ F32.key y)

/-- `max`: the second operand on a tie, so that `max(0, -0)` is `-0` (44_host_commands.md R213); a NaN operand gives a
NaN (log 2). -/
def F32.max (x y : Num32) : Num32 :=
  if F32.isNaN x || F32.isNaN y then F32.nan else if F32.lt y x then x else y

/-- `min`: the first operand on a tie; a NaN operand gives a NaN (log 2). -/
def F32.min (x y : Num32) : Num32 :=
  if F32.isNaN x || F32.isNaN y then F32.nan else if F32.lt y x then y else x

/-- `0 ≤ x ≤ 1`. -/
def F32.inUnit (x : Num32) : Bool := F32.le 0 x && F32.le x 0x3F800000

/-- `0 ≤ x < 1`, the range of a phase (10_state.md R27). -/
def F32.isPhase (x : Num32) : Bool := F32.le 0 x && F32.lt x 0x3F800000

/-! ### The format -/

/-- `NUM.toBits` (30_encoding.md R92): a NaN goes out as 0x7FC00000. -/
def F32.toBits (x : Num32) : Word := if F32.isNaN x then 0x7FC00000 else x

/-- Binary32 with round to nearest even as an instance of `NUM`; a value is its bit pattern, so `ofBits` is the identity. -/
def F32.format : NumFormat Num32 where
  ofRat := fun neg n d => if neg then F32.litNeg n d else F32.lit n d
  twoPi := F32.lit 6283185307179586 1000000000000000
  ofNat := F32.ofNat
  ofBits := fun w => w
  toBits := F32.toBits
  add := F32.add
  sub := F32.sub
  mul := F32.mul
  div := F32.div
  neg := F32.neg
  abs := F32.abs
  frac := F32.frac
  min := F32.min
  max := F32.max
  lt := F32.lt
  le := F32.le
  isNaN := F32.isNaN
  isMinusZero := fun x => x == 0x80000000
  flush := F32.flush

end Sys2Proof
end

