-- ==== Sys2Proof/Machine/Defaults.lean ====
section
/-! DEFINITION. The configuration instance `cfg` of this machine: the spec's default where it gives one (00_scope.md R6),
and a free value kept inside the limits the spec states where it gives none (log 3 to 11, 14). -/

namespace Sys2Proof.Machine

/-- The value one, as a magnitude and as a value. -/
def oneMag : Nat := 0x3F800000
def one : Num32 := 0x3F800000

/-! ### Elementary functions: every function that R12 admits, and no other, arises from some free value; only that a NaN
stays a NaN under `tanh` is taken from 41_voice_synthesis.md R156 (log 3) -/

/-- A function on magnitudes that is 0 at 0, never falls and never passes `cap`; `f n` says whether it rises at `n`. -/
def climb (cap : Nat) (f : Nat → Option Nat) : Nat → Nat
  | 0 => 0
  | n + 1 =>
    match f (n + 1) with
    | none => climb cap f n
    | some v => max (climb cap f n) (min v cap)

/-- `NUM.tanh` (00_scope.md R12): odd, non-decreasing, 0 at 0, at most 1 in magnitude; a NaN stays one
(41_voice_synthesis.md R156). -/
def tanhOf (f : Nat → Option Nat) (x : Num32) : Num32 :=
  if F32.isNaN x then F32.nan else F32.pack x.msb (climb oneMag f (F32.mag x))

/-- `NUM.exp` (R12): in [0, 1] on finite operands at or below 0. -/
def expOf (f : Num32 → Num32) (x : Num32) : Num32 :=
  if F32.isFinite x && F32.le x 0 && !F32.inUnit (f x) then one else f x

/-- `NUM.sin` (R12): magnitude at most 1 on finite operands. -/
def sinOf (f : Num32 → Num32) (x : Num32) : Num32 :=
  if F32.isFinite x && !F32.le (F32.abs (f x)) one then 0 else f x

/-- `NUM.exp2` (R12): positive on finite operands. -/
def exp2Of (f : Num32 → Num32) (x : Num32) : Num32 :=
  if F32.isFinite x && !F32.lt 0 (f x) then one else f x

/-- `NUM.sqrt` (R12): at least 1 where the operand is. -/
def sqrtOf (f : Num32 → Num32) (x : Num32) : Num32 :=
  if F32.le one x && !F32.le one (f x) then one else f x

/-! ### PSPEC: the default table of 10_state.md R38 (log 5) -/

def pspecGlobal (id : Nat) : ParamSpec Num32 :=
  match id with
  | 0 => ⟨F32.litNeg 12 1, F32.lit 12 1, 0⟩
  | 1 => ⟨F32.lit 3 10, F32.lit 2 1, one⟩
  | 2 => ⟨0, one, F32.lit 1 2⟩
  | 3 => ⟨0, one, 0⟩
  | 4 => ⟨F32.lit 3 10, F32.lit 2 1, one⟩
  | _ => ⟨0, one, 0⟩

def pspecDrum (j : Nat) : ParamSpec Num32 :=
  match j with
  | 0 => ⟨0, F32.lit 3 2, one⟩
  | 1 => ⟨F32.litNeg 12 1, F32.lit 12 1, 0⟩
  | 2 => ⟨F32.lit 1 5, F32.lit 9 5, one⟩
  | 3 => ⟨0, one, F32.lit 1 2⟩
  | _ => ⟨0, one, 0⟩

/-- Ids 0 to 5 are the globals, id `6 + 5k + j` is field `j` of drum `k` (R34, R35). -/
def pspecDefault (id : Fin 46) : ParamSpec Num32 :=
  if id.val < 6 then pspecGlobal id.val else pspecDrum ((id.val - 6) % 5)

/-! ### The patch ROM (42_drum_generators.md R170; log 6) -/

/-- A gain: finite and not negative. -/
def gainOf (x : Num32) : Num32 := if F32.isFinite x && F32.le 0 x then x else 0

/-- A time constant, frequency or ratio: finite and positive. -/
def posOf (x : Num32) : Num32 := if F32.isFinite x && F32.lt 0 x then x else one

/-- Two positive finite values, the first below the second. -/
def pairOf (a b : Num32) : Num32 × Num32 :=
  if F32.lt 0 a && F32.lt a b && F32.isFinite b then (a, b) else (one, F32.lit 2 1)

/-- The ROM whose open constants come from `f`. -/
def romOf (f : Nat → Num32) : Rom Num32 where
  kFHi := F32.lit 346 1
  kFLo := F32.lit 46 1
  kSweepTau := posOf (f 0)
  kAmpTau := posOf (f 1)
  kClickTau := posOf (f 2)
  kThumpG := gainOf (f 3)
  kSubG := gainOf (f 4)
  kClickG := gainOf (f 5)
  sFHi := F32.lit 368 1
  sFLo := F32.lit 238 1
  sSweepTau := posOf (f 6)
  sBodyTau := posOf (f 7)
  sNoiseTau := (pairOf (f 8) (f 9)).2
  sCrackTau := (pairOf (f 8) (f 9)).1
  sBodyG := gainOf (f 10)
  sNoiseG := gainOf (f 11)
  sCrackG := gainOf (f 12)
  chRatio := F32.lit 1733 1000
  chF0 := posOf (f 13)
  chTau := (pairOf (f 14) (f 15)).1
  chNoiseG := gainOf (f 16)
  chPartG := gainOf (f 17)
  ohF0 := posOf (f 18)
  ohR1 := posOf (f 19)
  ohR2 := posOf (f 20)
  ohTau := (pairOf (f 14) (f 15)).2
  ohNoiseG := gainOf (f 21)
  ohPartG := gainOf (f 22)
  crAtt := F32.lit 2 1000
  crF0 := posOf (f 23)
  crF1 := posOf (f 24)
  crF2 := posOf (f 25)
  crPtau0 := posOf (f 26)
  crPtau1 := posOf (f 27)
  crPtau2 := posOf (f 28)
  crNoiseTau := posOf (f 29)
  crPg0 := gainOf (f 30)
  crPg1 := gainOf (f 31)
  crPg2 := gainOf (f 32)
  crNoiseG := gainOf (f 33)
  rdAtt := F32.lit 18 10000
  rdPingF := posOf (f 34)
  rdTailF := posOf (f 35)
  rdPingTau := posOf (f 36)
  rdTailTau := posOf (f 37)
  rdNoiseTau := posOf (f 38)
  rdPingG := gainOf (f 39)
  rdTailG := gainOf (f 40)
  rdNoiseG := gainOf (f 41)
  clOn0 := 0
  clOn1 := F32.lit 12 1000
  clOn2 := F32.lit 22 1000
  clLimit := one
  clBurstTau := posOf (f 42)
  clG := gainOf (f 43)
  rmRatio := F32.lit 1585 1000
  rmF0 := posOf (f 44)
  rmTau := posOf (f 45)
  rmTickTau := posOf (f 46)
  rmPartG := gainOf (f 47)
  rmTickG := gainOf (f 48)

/-! ### Tone maps (41_voice_synthesis.md R152, 43_master_bus.md R197; log 7) -/

def vtoneCoefDefault (x : Num32) : Num32 :=
  F32.add (F32.lit 2 100) (F32.mul (F32.lit 60 100) x)

def vtoneMixDefault (x : Num32) : Num32 := x

def mtoneCoefDefault (x : Num32) : Num32 :=
  F32.add (F32.lit 14 100) (F32.mul (F32.lit 38 100) x)

/-! ### The allocation draw (40_voice_pool.md R114; log 10) -/

/-- A phase of a draw: in [0, 1). -/
def phaseOf (x : Num32) : Num32 := if F32.isPhase x then x else 0

def drawOf (f : Nat → Draw Num32) (n : Nat) : Draw Num32 :=
  ⟨phaseOf (f n).p0, phaseOf (f n).p1, phaseOf (f n).p2, (f n).seed⟩

/-! ### The instance -/

/-- The configuration of this machine. -/
def cfg : Config Num32 where
  num := F32.format
  ftz := false
  tanh := tanhOf Config.tanhFree
  sin := sinOf Config.sinFree
  exp := expOf Config.expFree
  exp2 := exp2Of Config.exp2Free
  sqrt := sqrtOf Config.sqrtFree
  pspec := pspecDefault
  rom := romOf Config.romFree
  vtoneCoef := vtoneCoefDefault
  vtoneMix := vtoneMixDefault
  mtoneCoefL := mtoneCoefDefault
  mtoneCoefR := mtoneCoefDefault
  epsDecay := F32.lit 1 10000
  epsHat := F32.lit 1 10000
  epsTau := F32.lit 1 10000
  draw := drawOf Config.drawFree
  velKeepsMinusZero := Config.velKeepsMinusZeroFree
  snapAtomic := false
  snapOverlap := Config.snapOverlapFree
  snapRead := Config.snapReadFree
  nch := 2
  cmdByteOrder := .little

end Sys2Proof.Machine
end

