-- ==== Sys2Proof/WellFormed.lean ====
section
/-! DEFINITION. Which terms of `Instr` stand for a word of the encoding. Every field value is legal (30_encoding.md R88,
R91 to R95), except that the opcode of a reserved row lies in 8 to 15 (R97). -/

namespace Sys2Proof

/-- The opcode of a reserved row is 8 to 15; every other row admits every value of its fields. -/
def Instr.wellFormed : Instr → Bool
  | .nop => true
  | .prepare _ _ => true
  | .setp _ _ => true
  | .getp _ => true
  | .snap => true
  | .trig _ _ _ => true
  | .render _ => true
  | .dbghit _ => true
  | .reserved op _ => 8 ≤ op.toNat

end Sys2Proof
end

