-- ==== Sys2Proof/Decode.lean ====
section
/-! DEFINITION. The decoder of 30_encoding.md R100, total on any word, and the encoder written from the same formats
(R83 to R90). -/

namespace Sys2Proof

/-- The number of a drum type (R88). -/
def drumCode : DrumType → BitVec 3
  | .kick => 0
  | .snare => 1
  | .closedHat => 2
  | .openHat => 3
  | .crash => 4
  | .ride => 5
  | .clap => 6
  | .rim => 7

/-- The drum type of a 3-bit field; all eight values are legal (R88). -/
def drumOfCode (b : BitVec 3) : DrumType :=
  match b.toNat with
  | 0 => .kick
  | 1 => .snare
  | 2 => .closedHat
  | 3 => .openHat
  | 4 => .crash
  | 5 => .ride
  | 6 => .clap
  | _ => .rim

/-- The opcode field `W0[31:28]` (R82). -/
def cmdOp (w0 : Word) : BitVec 4 := w0.extractLsb' 28 4

/-- How many words a command has: two for opcodes 1, 2 and 5, else one, whatever the other bits (R81). -/
def cmdWords (w0 : Word) : Nat :=
  match (cmdOp w0).toNat with
  | 1 => 2
  | 2 => 2
  | 5 => 2
  | _ => 1

/-- Why a word is `ILLEGAL` although its opcode is 0 to 7. -/
inductive Illegal where
  /-- A reserved bit of the format of opcode `op` is set (R96). -/
  | reservedBits (op : BitVec 4)
deriving DecidableEq, Repr, Inhabited

/-- What a command word decodes to: an instruction, or `ILLEGAL` by name (R80, R100). -/
inductive Decoded where
  | instr (i : Instr)
  | illegal (why : Illegal)
deriving DecidableEq, Repr, Inhabited

/-- An instruction when the reserved bits `r` are all zero, else `ILLEGAL` (R96). -/
def ifZero {n : Nat} (r : BitVec n) (w0 : Word) (i : Instr) : Decoded :=
  if r = 0 then .instr i else .illegal (.reservedBits (cmdOp w0))

/-- The decoder of R100. `w1` is the second word and is looked at by two-word commands only. -/
def decode (w0 w1 : Word) : Decoded :=
  match (cmdOp w0).toNat with
  | 0 => ifZero (w0.extractLsb' 0 28) w0 .nop
  | 1 => ifZero (w0.extractLsb' 16 12) w0 (.prepare (w0.extractLsb' 0 16) w1)
  | 2 => ifZero (w0.extractLsb' 6 22) w0 (.setp (w0.extractLsb' 0 6) w1)
  | 3 => ifZero (w0.extractLsb' 6 22) w0 (.getp (w0.extractLsb' 0 6))
  | 4 => ifZero (w0.extractLsb' 0 28) w0 .snap
  | 5 => ifZero (w0.extractLsb' 27 1) w0
           (.trig (drumOfCode (w0.extractLsb' 24 3)) (w0.extractLsb' 0 24) w1)
  | 6 => ifZero (w0.extractLsb' 16 12) w0 (.render (w0.extractLsb' 0 16))
  | 7 => ifZero (w0.extractLsb' 27 1 ++ w0.extractLsb' 0 24) w0
           (.dbghit (drumOfCode (w0.extractLsb' 24 3)))
  | _ => .instr (.reserved (cmdOp w0) (w0.extractLsb' 0 28))

/-- What a stream of words begins with. -/
inductive StreamHead where
  /-- The stream ends before the command is complete: the port waits (20_memory.md R65). -/
  | incomplete
  /-- A complete command and the words after it. -/
  | command (d : Decoded) (rest : List Word)
deriving DecidableEq, Repr, Inhabited

/-- The first command of a stream of words (R81, R100). -/
def decodeWords : List Word → StreamHead
  | [] => .incomplete
  | w0 :: rest =>
    if cmdWords w0 = 2 then
      match rest with
      | [] => .incomplete
      | w1 :: rest' => .command (decode w0 w1) rest'
    else .command (decode w0 0) rest

/-! ### Byte transport (20_memory.md R64) -/

/-- The word of four bytes, in the order in which they are sent. -/
def wordOfBytes (o : ByteOrder) (b0 b1 b2 b3 : Byte) : Word :=
  match o with
  | .little => b3 ++ b2 ++ b1 ++ b0
  | .big => b0 ++ b1 ++ b2 ++ b3

/-- The four bytes of a word, in the order in which they are sent. -/
def bytesOfWord (o : ByteOrder) (w : Word) : List Byte :=
  let le := [w.extractLsb' 0 8, w.extractLsb' 8 8, w.extractLsb' 16 8, w.extractLsb' 24 8]
  match o with
  | .little => le
  | .big => le.reverse

/-- The whole words of a byte stream; bytes that do not fill a word yet are left. -/
def wordsOfBytes (o : ByteOrder) : List Byte → List Word
  | b0 :: b1 :: b2 :: b3 :: rest => wordOfBytes o b0 b1 b2 b3 :: wordsOfBytes o rest
  | _ => []

/-- The first command of a stream of bytes, in the byte order of the transport. -/
def decodeBytes (o : ByteOrder) (bs : List Byte) : StreamHead := decodeWords (wordsOfBytes o bs)

/-! ### The encoder -/

/-- A first word: the opcode and the 28 bits below it (R82). -/
def header (op : BitVec 4) (low : BitVec 28) : Word := op ++ low

/-- The words of an instruction, from the formats Z, P, I, T, N, D of R83 to R89 and the opcodes of R90. -/
def encode : Instr → List Word
  | .nop => [header 0 0]
  | .prepare mb sr => [header 1 (0#12 ++ mb), sr]
  | .setp pid val => [header 2 (0#22 ++ pid), val]
  | .getp pid => [header 3 (0#22 ++ pid)]
  | .snap => [header 4 0]
  | .trig dt off vel => [header 5 (0#1 ++ drumCode dt ++ off), vel]
  | .render n => [header 6 (0#12 ++ n)]
  | .dbghit dt => [header 7 (0#1 ++ drumCode dt ++ 0#24)]
  | .reserved op ignored => [header op ignored]

/-- The words that a table word `w` of `nbits` bits stands for: the first word is bits 31..0, a second word, where the
first one's opcode has one, is the bits above it, zero above `nbits`. -/
def tableWords (nbits w : Nat) : List Word :=
  let v := w % 2 ^ nbits
  let w0 := BitVec.ofNat 32 v
  if cmdWords w0 = 2 then [w0, BitVec.ofNat 32 (v / 2 ^ 32)] else [w0]

/-- The instruction that the decoder reads from a table word; the words are laid out as this machine's byte transport
carries them and given to the decoder (20_memory.md R64; log 24). -/
def decodeTableWord (nbits w : Nat) : Option Instr :=
  match decodeBytes Machine.cfg.cmdByteOrder ((tableWords nbits w).flatMap (bytesOfWord Machine.cfg.cmdByteOrder)) with
  | .command (.instr i) _ => some i
  | _ => none

end Sys2Proof
end

