-- ==== Sys2Proof/Machine/State.lean ====
section
/-! DEFINITION. The state of DDVE (10_state.md R20 to R48) as plain data, the reasons a step can stop, and the state after
power-on reset (10_state.md R51). What holds values of NUM is written over any carrier; the state of the machine holds the
carrier of its configuration instance, binary32 (log 1). -/

namespace Sys2Proof.Machine

/-- One voice record (10_state.md R21 to R29). -/
structure Voice (N : Type) where
  /-- R22. -/
  active : Bool
  /-- R23; `none` is NONE. -/
  dtype : Option DrumType
  /-- R24. -/
  vel : N
  /-- `samplesUntilStart`, R25. -/
  sus : BitVec 32
  /-- `sampleIndex`, R26. -/
  sidx : BitVec 32
  /-- The three phase accumulators, R27. -/
  ph : Vector N 3
  /-- The noise state, R28. -/
  ns : BitVec 32
  /-- The tone filter state, R29. -/
  tlp : N
deriving DecidableEq, Repr

/-- The master bus registers (10_state.md R43, R44). -/
structure MasterBus (N : Type) where
  punch : N
  lpL : N
  lpR : N
deriving DecidableEq, Repr

/-- One word that the host has sent to a port (00_scope.md R13; log 12). -/
structure Arrival where
  port : Port
  word : Word
deriving DecidableEq, Repr

/-- A bank of parameter registers (10_state.md R33). -/
abbrev Bank (N : Type) := Vector N 46

/-- The machine. Architectural state first (R20), then the observation (R48), then what a port holds of a half-sent
command (20_memory.md R65), then the model's own fields (log 10, 12, 14, 17). -/
structure State where
  /-- The voice file (R21). -/
  voices : Vector (Voice Num32) 32
  /-- The shadow bank `PSH` (R33). -/
  psh : Bank Num32
  /-- The snapshot bank `SNAP` (R33). -/
  snap : Bank Num32
  /-- The sample rate; `none` is unwritten (R40). -/
  sr : Option (BitVec 32)
  /-- R41. -/
  maxblk : BitVec 16
  /-- The pending debug hits (R42). -/
  dbgmask : BitVec 8
  /-- R43, R44. -/
  mb : MasterBus Num32
  /-- The output stream, oldest frame first (R48, 43_master_bus.md R202). -/
  frames : List (List Num32)
  /-- The response stream of AUD (R48). -/
  audResp : List Word
  /-- The response stream of CTL (R48). -/
  ctlResp : List Word
  /-- The first word of a two-word command that AUD holds (20_memory.md R65; log 16). -/
  audHeld : Option Word
  /-- The same of CTL. -/
  ctlHeld : Option Word
  /-- Words that no port has taken yet, in the order in which they reach the block (log 12, 13). -/
  inbox : List Arrival
  /-- The port whose command is being executed (log 17). -/
  port : Port
  /-- How many allocation draws were taken since power-on (log 10). -/
  draws : Nat
  /-- How many `SNAP`s were executed since power-on (log 14). -/
  snaps : Nat
deriving DecidableEq, Repr

/-- DDVE has no fault of any kind (60_exceptions.md R230, R242), so no constructor: nothing raises one. -/
inductive Fault where
deriving DecidableEq, Repr

/-- Why a command has no successor state. -/
inductive Refusal where
  /-- An instruction without a meaning in the model, raised by an arm of `exec`; safe. No arm raises it. -/
  | notModelled (mnemonic : String)
  /-- `RENDER` on AUD while `SR` is unwritten, raised by `execRender` (60_exceptions.md R238, 70_reset_and_hazards.md
  R262): the spec gives it no meaning and refuses it; safe (log 22). -/
  | renderBeforePrepare
deriving DecidableEq, Repr

section
variable {N : Type} (c : Config N)

/-- A free record as resets leave it (10_state.md R51). -/
def clearedVoice : Voice N where
  active := false
  dtype := none
  vel := c.zero
  sus := 0
  sidx := 0
  ph := #v[c.zero, c.zero, c.zero]
  ns := 1
  tlp := c.zero

/-- The voice file as resets leave it (10_state.md R51, R52). -/
def clearedVoices : Vector (Voice N) 32 := Vector.replicate 32 (clearedVoice c)

/-- The master bus registers as resets leave them (R51, R52). -/
def clearedBus : MasterBus N := ⟨c.zero, c.zero, c.zero⟩

/-- Both banks after power-on: the defaults of `PSPEC` (R51). -/
def defaultBank : Bank N := Vector.ofFn fun id => (c.pspec id).dflt

end

/-- The state after power-on reset under a configuration (10_state.md R51; log 10, 12, 14, 16, 17 for the model's own
fields). -/
def State.powerOn (c : Config Num32) : State where
  voices := clearedVoices c
  psh := defaultBank c
  snap := defaultBank c
  sr := none
  maxblk := 0
  dbgmask := 0
  mb := clearedBus c
  frames := []
  audResp := []
  ctlResp := []
  audHeld := none
  ctlHeld := none
  inbox := []
  port := .aud
  draws := 0
  snaps := 0

/-- The state after power-on reset (10_state.md R51, 70_reset_and_hazards.md R260). -/
def State.reset : State := State.powerOn cfg

end Sys2Proof.Machine
end

