-- ==== Sys2Proof/Machine/Operands.lean ====
section
/-! DEFINITION. Operand assembly (30_encoding.md R91 to R95), the parameter register map (10_state.md R34, R35) and the
carriers of responses and frames (30_encoding.md R92, R101). -/

namespace Sys2Proof.Machine

section
variable {N : Type} (c : Config N)

/-- `NUM.ofBits` (30_encoding.md R92). -/
def numOfBits (w : Word) : N := c.num.ofBits w

/-- `NUM.toBits` (R92). -/
def numToBits (x : N) : Word := c.num.toBits x

end

/-- The sample offset of `TRIG`: two's complement, 24 bits (R91). -/
def offsetOf (off : BitVec 24) : Int := off.toInt

/-- The countdown of an allocation: `max(0, off)` (40_voice_pool.md R113), in 32 bits (10_state.md R25). -/
def countdownOf (off : Int) : BitVec 32 := BitVec.ofNat 32 (max 0 off).toNat

/-- The frame count of `RENDER` (30_encoding.md R94). -/
def frameCount (n : BitVec 16) : Nat := n.toNat

/-- `max(8000, sr)` (10_state.md R40, R52). -/
def rateOf (sr : BitVec 32) : BitVec 32 := if sr.toNat < 8000 then 8000 else sr

/-- The register that a parameter id names; ids 46 to 63 name none (30_encoding.md R95, 20_memory.md R61). -/
def regOf (pid : BitVec 6) : Option (Fin 46) :=
  if h : pid.toNat < 46 then some ⟨pid.toNat, h⟩ else none

section
variable {N : Type} (c : Config N)

/-- The velocity an allocation stores: `clampN(vel, 0, 1)` (40_voice_pool.md R113). The zero made from -0 has a sign the
spec leaves open (95_test_vectors.md V16; log 11). -/
def velocityOf (vel : N) : N :=
  if c.num.isMinusZero vel && !c.velKeepsMinusZero then c.zero else c.clamp vel c.zero c.one

/-- The velocity of a debug hit, 0.95 (00_scope.md R5). -/
def debugVelocity : N := c.lit 95 100

/-- What `SETP` stores in register `id` for the operand `x`; nothing when `x` is a NaN (44_host_commands.md R213). -/
def paramValue (id : Fin 46) (x : N) : Option N :=
  if c.num.isNaN x then none else some (c.clamp x (c.pspec id).lo (c.pspec id).hi)

end

/-- The drum type field of a voice as stored: 4 bits, NONE = 8 (10_state.md R23). -/
def dtypeCode : Option DrumType → BitVec 4
  | none => 8
  | some k => (drumCode k).setWidth 4

/-! ### The register map (10_state.md R34, R35) -/

def gTune : Fin 46 := 0
def gDecay : Fin 46 := 1
def gTone : Fin 46 := 2
def gDrive : Fin 46 := 3
def gHatLen : Fin 46 := 4
def gSwing : Fin 46 := 5

/-- The register of field `j` of drum type `k`: id `6 + 5k + j` (R35). -/
def drumReg (k : DrumType) (j : Fin 5) : Fin 46 :=
  ⟨6 + 5 * (drumCode k).toNat + j.val, by have := (drumCode k).isLt; omega⟩

def dLevel (k : DrumType) : Fin 46 := drumReg k 0
def dTune (k : DrumType) : Fin 46 := drumReg k 1
def dDecay (k : DrumType) : Fin 46 := drumReg k 2
def dTone (k : DrumType) : Fin 46 := drumReg k 3
def dDrive (k : DrumType) : Fin 46 := drumReg k 4

section
variable {N : Type}

/-- One register of a bank. -/
def regRead (b : Bank N) (id : Fin 46) : N := b[id]

/-- The record in a slot of the voice file (10_state.md R21). -/
def voiceAt (vs : Vector (Voice N) 32) (i : Fin 32) : Voice N := vs[i]

/-! ### Carriers (30_encoding.md R101) -/

/-- An output frame on a word transport: channel 0 first. -/
def frameWords (c : Config N) (frame : List N) : List Word := frame.map (numToBits c)

end

end Sys2Proof.Machine
end

