-- ==== Sys2Proof/Machine/Flags.lean ====
section
/-! DEFINITION. The one-bit state of DDVE (10_state.md R46): there are no condition codes and no status register, only
the bits of `DBGMASK` (R42), the `active` bits and what is read off them (R31), and the transient `any` of a tick (R45). -/

namespace Sys2Proof.Machine

/-- `DBGMASK | (1 << k)` (20_memory.md R73, 44_host_commands.md R219). -/
def setHit (mask : BitVec 8) (k : DrumType) : BitVec 8 := mask ||| (1#8 <<< (drumCode k).toNat)

/-- Whether the hit of type `k` is pending (10_state.md R42). -/
def hitPending (mask : BitVec 8) (k : DrumType) : Bool := mask.getLsbD (drumCode k).toNat

/-- The drum types in ascending order, the order of a drain (44_host_commands.md R217). -/
def drumTypes : List DrumType :=
  [.kick, .snare, .closedHat, .openHat, .crash, .ride, .clap, .rim]

/-- The pending types of a mask, ascending. -/
def pendingHits (mask : BitVec 8) : List DrumType := drumTypes.filter (hitPending mask)

/-- The three states of a record (10_state.md R31). -/
inductive LifeState where
  | free
  | pending
  | sounding
deriving DecidableEq, Repr

/-- The state of a record, read off its fields (R31). -/
def lifeState {N : Type} (v : Voice N) : LifeState :=
  if v.active then (if v.sus = 0 then .sounding else .pending) else .free

/-- How many records are active. -/
def activeCount {N : Type} (vs : Vector (Voice N) 32) : Nat := vs.toList.countP (·.active)

/-- `any` (10_state.md R45): whether some algorithm was invoked, given what each record contributed. -/
def anyInvoked {N : Type} (outs : List (Option N)) : Bool := outs.any Option.isSome

end Sys2Proof.Machine
end

