-- ==== Sys2Proof/Machine/Synthesis.lean ====
section
/-! DEFINITION. The voice datapath common to all drum types (41_voice_synthesis.md): time base, tuning, decay, lifetime,
the oscillator, the noise generator, the envelopes and the post chain. Every formula is evaluated in the order in which the
spec writes it (00_scope.md R8). -/

namespace Sys2Proof.Machine

variable {N : Type}

/-! ### Time base, tuning, decay (R140 to R143) -/

/-- `t = NUM(sidx) / NUM(SR)` (R140). -/
def elapsed (c : Config N) (sr : BitVec 32) (v : Voice N) : N :=
  c.div (c.ofNat v.sidx.toNat) (c.ofNat sr.toNat)

/-- `tuneMul = exp2((G_TUNE + D_TUNE(k)) / 12)` (R141). -/
def tuneMulOf (c : Config N) (snap : Bank N) (k : DrumType) : N :=
  c.exp2 (c.div (c.add (regRead snap gTune) (regRead snap (dTune k))) (c.lit 12 1))

/-- `decay = max(EPS_DECAY, G_DECAY × D_DECAY(k))` (R142). -/
def decayOf (c : Config N) (snap : Bank N) (k : DrumType) : N :=
  c.num.max c.epsDecay (c.mul (regRead snap gDecay) (regRead snap (dDecay k)))

/-- `hl = max(EPS_HAT, G_HATLEN)` (R142). -/
def hatLenOf (c : Config N) (snap : Bank N) : N := c.num.max c.epsHat (regRead snap gHatLen)

/-- The termination coefficient of a type (00_scope.md R5). -/
def thr (c : Config N) : DrumType → N
  | .kick => c.lit 52 100
  | .snare => c.lit 34 100
  | .closedHat => c.lit 10 100
  | .openHat => c.lit 24 100
  | .crash => c.lit 30 100
  | .ride => c.lit 34 100
  | .clap => c.lit 34 100
  | .rim => c.lit 18 100

/-- The hat family, whose lifetime the hat length scales too (glossary, R143). -/
def isHatFamily : DrumType → Bool
  | .kick => false
  | .snare => false
  | .closedHat => true
  | .openHat => true
  | .crash => true
  | .ride => true
  | .clap => false
  | .rim => false

/-- The lifetime in seconds (R143). -/
def lifeOf (c : Config N) (k : DrumType) (decay hl : N) : N :=
  if isHatFamily k then c.mul (c.mul (thr c k) decay) hl else c.mul (thr c k) decay

/-! ### Primitives (R146 to R150) -/

/-- `osc(i, j, f)` (R146): the sine of the phase before the advance, and the record with that phase advanced. -/
def osc (c : Config N) (sr : BitVec 32) (j : Fin 3) (f : N) (v : Voice N) : N × Voice N :=
  (c.sin (c.mul c.num.twoPi v.ph[j]),
   { v with ph := v.ph.set j (c.frac (c.add v.ph[j] (c.div f (c.ofNat sr.toNat)))) })

/-- `xorshift32` (R148; the shift directions are the spec's item G1). -/
def xorshift32 (x : BitVec 32) : BitVec 32 :=
  let x1 := x ^^^ (x <<< 13)
  let x2 := x1 ^^^ (x1 >>> 17)
  x2 ^^^ (x2 <<< 5)

/-- The sample of a noise state: `NUM(n) × 2^-31 - 1` (R147). -/
def noiseSample (c : Config N) (n : BitVec 32) : N :=
  c.sub (c.mul (c.ofNat n.toNat) (c.lit 1 (2 ^ 31))) c.one

/-- `nz(i)` (R147): advance, then output. -/
def nz (c : Config N) (v : Voice N) : N × Voice N :=
  (noiseSample c (xorshift32 v.ns), { v with ns := xorshift32 v.ns })

/-- `dec(t, tau)` (R149). -/
def dec (c : Config N) (t tau : N) : N :=
  c.exp (c.num.neg (c.div t (c.num.max c.epsTau tau)))

/-- `att(t, T)` (R150). -/
def att (c : Config N) (t ramp : N) : N := c.num.min c.one (c.div t ramp)

/-- `softClip(x) = tanh(x)` (00_scope.md R11). -/
def softClip (c : Config N) (x : N) : N := c.tanh x

/-! ### The post chain (R151 to R155) -/

/-- Stage 1 (R153): the new tone filter state. -/
def toneState (c : Config N) (snap : Bank N) (k : DrumType) (raw tlp : N) : N :=
  c.add tlp (c.mul (c.vtoneCoef (regRead snap (dTone k))) (c.sub raw tlp))

/-- Stage 1 (R153): the blend with the updated filter state. -/
def toneBlend (c : Config N) (snap : Bank N) (k : DrumType) (raw tlp' : N) : N :=
  c.add raw (c.mul (c.vtoneMix (regRead snap (dTone k))) (c.sub tlp' raw))

/-- A saturating drive stage of gain `dg`: `softClip(x) × (1 / sqrt(dg))` (R154, 43_master_bus.md R195). -/
def driveStage (c : Config N) (dg x : N) : N :=
  c.mul (softClip c x) (c.div c.one (c.sqrt dg))

/-- The drive gain of a voice: `1 + 6.6 × D_DRIVE(k)` (R154). -/
def voiceDriveGain (c : Config N) (snap : Bank N) (k : DrumType) : N :=
  c.add c.one (c.mul (c.lit 66 10) (regRead snap (dDrive k)))

/-- Stage 2 (R154). -/
def voiceDrive (c : Config N) (snap : Bank N) (k : DrumType) (x1 : N) : N :=
  driveStage c (voiceDriveGain c snap k) (c.mul x1 (voiceDriveGain c snap k))

/-- Stages 3 and 4 (R155): velocity curve, level, final clip. -/
def voiceScale (c : Config N) (snap : Bank N) (k : DrumType) (vel x2 : N) : N :=
  softClip c
    (c.mul (c.mul x2 (c.add (c.lit 35 100) (c.mul (c.lit 65 100) vel))) (regRead snap (dLevel k)))

/-- The post chain (R151): the sample, and the record with its filter state updated. -/
def post (c : Config N) (snap : Bank N) (k : DrumType) (raw : N) (v : Voice N) : N × Voice N :=
  let tlp' := toneState c snap k raw v.tlp
  (voiceScale c snap k v.vel (voiceDrive c snap k (toneBlend c snap k raw tlp')), { v with tlp := tlp' })

end Sys2Proof.Machine
end

