-- ==== Sys2Proof/Machine/Generators.lean ====
section
/-! DEFINITION. The eight drum generators, in the reference datapaths of 42_drum_generators.md R171 to R178 (log 27). Each
takes the record, `t`, `tuneMul`, `decay` and `hl`, and gives the raw sample and the record with its phases and noise state
advanced (41_voice_synthesis.md R157). -/

namespace Sys2Proof.Machine

variable {N : Type}

/-- `GEN[0]` (R171). -/
def genKick (c : Config N) (sr : BitVec 32) (t tuneMul decay : N) (v : Voice N) : N × Voice N :=
  let r := c.rom
  let f := c.mul (c.add r.kFLo (c.mul (c.sub r.kFHi r.kFLo) (dec c t r.kSweepTau))) tuneMul
  let th := osc c sr 0 f v
  let sb := osc c sr 1 (c.mul (c.lit 1 2) f) th.2
  let n := nz c sb.2
  let a := dec c t (c.mul r.kAmpTau decay)
  (c.add (c.mul a (c.add (c.mul r.kThumpG th.1) (c.mul r.kSubG sb.1)))
     (c.mul (c.mul r.kClickG (dec c t r.kClickTau)) n.1), n.2)

/-- `GEN[1]` (R172). -/
def genSnare (c : Config N) (sr : BitVec 32) (t tuneMul decay : N) (v : Voice N) : N × Voice N :=
  let r := c.rom
  let f := c.mul (c.add r.sFLo (c.mul (c.sub r.sFHi r.sFLo) (dec c t r.sSweepTau))) tuneMul
  let body := osc c sr 0 f v
  let n := nz c body.2
  (c.add (c.mul (c.mul r.sBodyG (dec c t (c.mul r.sBodyTau decay))) body.1)
     (c.mul (c.add (c.mul r.sNoiseG (dec c t (c.mul r.sNoiseTau decay)))
        (c.mul r.sCrackG (dec c t r.sCrackTau))) n.1), n.2)

/-- `GEN[2]` (R173). -/
def genClosedHat (c : Config N) (sr : BitVec 32) (t tuneMul decay hl : N) (v : Voice N) : N × Voice N :=
  let r := c.rom
  let f0 := c.mul r.chF0 tuneMul
  let p := osc c sr 0 f0 v
  let q := osc c sr 1 (c.mul r.chRatio f0) p.2
  let n := nz c q.2
  (c.mul (dec c t (c.mul (c.mul r.chTau decay) hl))
     (c.add (c.mul r.chNoiseG n.1) (c.mul r.chPartG (c.add p.1 q.1))), n.2)

/-- `GEN[3]` (R174). -/
def genOpenHat (c : Config N) (sr : BitVec 32) (t tuneMul decay hl : N) (v : Voice N) : N × Voice N :=
  let r := c.rom
  let f0 := c.mul r.ohF0 tuneMul
  let p0 := osc c sr 0 f0 v
  let p1 := osc c sr 1 (c.mul r.ohR1 f0) p0.2
  let p2 := osc c sr 2 (c.mul r.ohR2 f0) p1.2
  let n := nz c p2.2
  (c.mul (dec c t (c.mul (c.mul r.ohTau decay) hl))
     (c.add (c.mul r.ohNoiseG n.1) (c.mul r.ohPartG (c.add (c.add p0.1 p1.1) p2.1))), n.2)

/-- One decaying component: `(g × dec(t, (tau × decay) × hl)) × x` (R175, R176). -/
def partialOf (c : Config N) (t decay hl g tau x : N) : N :=
  c.mul (c.mul g (dec c t (c.mul (c.mul tau decay) hl))) x

/-- `GEN[4]` (R175). -/
def genCrash (c : Config N) (sr : BitVec 32) (t tuneMul decay hl : N) (v : Voice N) : N × Voice N :=
  let r := c.rom
  let p0 := osc c sr 0 (c.mul r.crF0 tuneMul) v
  let p1 := osc c sr 1 (c.mul r.crF1 tuneMul) p0.2
  let p2 := osc c sr 2 (c.mul r.crF2 tuneMul) p1.2
  let n := nz c p2.2
  let s := c.add
    (c.add (partialOf c t decay hl r.crPg0 r.crPtau0 p0.1) (partialOf c t decay hl r.crPg1 r.crPtau1 p1.1))
    (partialOf c t decay hl r.crPg2 r.crPtau2 p2.1)
  (c.mul (att c t r.crAtt) (c.add s (partialOf c t decay hl r.crNoiseG r.crNoiseTau n.1)), n.2)

/-- `GEN[5]` (R176). -/
def genRide (c : Config N) (sr : BitVec 32) (t tuneMul decay hl : N) (v : Voice N) : N × Voice N :=
  let r := c.rom
  let pg := osc c sr 0 (c.mul r.rdPingF tuneMul) v
  let tl := osc c sr 1 (c.mul r.rdTailF tuneMul) pg.2
  let n := nz c tl.2
  let s := c.add (partialOf c t decay hl r.rdPingG r.rdPingTau pg.1)
    (partialOf c t decay hl r.rdTailG r.rdTailTau tl.1)
  (c.mul (att c t r.rdAtt) (c.add s (partialOf c t decay hl r.rdNoiseG r.rdNoiseTau n.1)), n.2)

/-- One burst of the clap envelope, added from its onset on (R177). -/
def addBurst (c : Config N) (t decay onset e : N) : N :=
  if c.num.le (c.mul onset decay) t
  then c.add e (dec c (c.sub t (c.mul onset decay)) c.rom.clBurstTau) else e

/-- The clap envelope: the sum of the three bursts, limited (R177). -/
def clapEnvelope (c : Config N) (t decay : N) : N :=
  c.num.min c.rom.clLimit
    (addBurst c t decay c.rom.clOn2 (addBurst c t decay c.rom.clOn1 (addBurst c t decay c.rom.clOn0 c.zero)))

/-- `GEN[6]` (R177). -/
def genClap (c : Config N) (t decay : N) (v : Voice N) : N × Voice N :=
  let n := nz c v
  (c.mul (c.mul c.rom.clG (clapEnvelope c t decay)) n.1, n.2)

/-- `GEN[7]` (R178). -/
def genRim (c : Config N) (sr : BitVec 32) (t tuneMul decay : N) (v : Voice N) : N × Voice N :=
  let r := c.rom
  let f0 := c.mul r.rmF0 tuneMul
  let p := osc c sr 0 f0 v
  let q := osc c sr 1 (c.mul r.rmRatio f0) p.2
  let n := nz c q.2
  (c.add (c.mul (c.mul r.rmPartG (dec c t (c.mul r.rmTau decay))) (c.add p.1 q.1))
     (c.mul (c.mul r.rmTickG (dec c t r.rmTickTau)) n.1), n.2)

/-- The eight-way dispatch on the drum type (41_voice_synthesis.md R144, 10_state.md R50). -/
def gen (c : Config N) (sr : BitVec 32) (k : DrumType) (t tuneMul decay hl : N) (v : Voice N) : N × Voice N :=
  match k with
  | .kick => genKick c sr t tuneMul decay v
  | .snare => genSnare c sr t tuneMul decay v
  | .closedHat => genClosedHat c sr t tuneMul decay hl v
  | .openHat => genOpenHat c sr t tuneMul decay hl v
  | .crash => genCrash c sr t tuneMul decay hl v
  | .ride => genRide c sr t tuneMul decay hl v
  | .clap => genClap c t decay v
  | .rim => genRim c sr t tuneMul decay v

end Sys2Proof.Machine
end

