-- ==== Sys2Proof/Machine/Tick.lean ====
section
/-! DEFINITION. One tick, the production of one frame (43_master_bus.md R191): the voice half (40_voice_pool.md R120 to
R124), the drum algorithm (41_voice_synthesis.md R144), and the master stage (43_master_bus.md R193 to R202). -/

namespace Sys2Proof.Machine

variable {N : Type}

/-! ### One voice -/

/-- What one invocation of a drum algorithm gives (41_voice_synthesis.md R145). -/
structure Sounded (N : Type) where
  sample : N
  alive : Bool
  voice : Voice N
deriving DecidableEq, Repr

/-- The lifetime of a voice of type `k` under the current snapshot (R142, R143). -/
def voiceLife (c : Config N) (snap : Bank N) (k : DrumType) : N :=
  lifeOf c k (decayOf c snap k) (hatLenOf c snap)

/-- The termination test `t > life` (R143). -/
def expired (c : Config N) (snap : Bank N) (sr : BitVec 32) (k : DrumType) (v : Voice N) : Bool :=
  c.num.lt (voiceLife c snap k) (elapsed c sr v)

/-- `DrumAlg` for a record of type `k` (R144): the lifetime test first; the retiring invocation returns 0 and advances
nothing. -/
def drumAlg (c : Config N) (snap : Bank N) (sr : BitVec 32) (k : DrumType) (v : Voice N) : Sounded N :=
  if expired c snap sr k v then ⟨c.zero, false, v⟩
  else
    let raw := gen c sr k (elapsed c sr v) (tuneMulOf c snap k) (decayOf c snap k) (hatLenOf c snap) v
    let y := post c snap k raw.1 raw.2
    ⟨y.1, true, y.2⟩

/-- `min(sidx + 1, 2^32 - 1)` (10_state.md R26, 40_voice_pool.md R122). -/
def agePlus (sidx : BitVec 32) : BitVec 32 := if sidx = 0xFFFFFFFF then sidx else sidx + 1

/-- `DrumAlg` of a record whatever its type. A record of type NONE is never dispatched (R144); it retires (log 20). -/
def drumAlgOf (c : Config N) (snap : Bank N) (sr : BitVec 32) (v : Voice N) : Sounded N :=
  match v.dtype with
  | some k => drumAlg c snap sr k v
  | none => ⟨c.zero, false, v⟩

/-- A record after an invocation: its age counted, its `active` bit cleared if it ended (40_voice_pool.md R122, R123). -/
def afterInvocation (r : Sounded N) : Voice N :=
  { r.voice with sidx := agePlus r.voice.sidx, active := r.voice.active && r.alive }

/-- What a visit of a record gives: the record, and its sample if its algorithm was invoked (R120 to R123). -/
structure Visit (N : Type) where
  voice : Voice N
  out : Option N
deriving DecidableEq, Repr

/-- The visit of one record in a tick: skipped when free (R120), counted down while pending (R121), else invoked (R122). -/
def voiceStep (c : Config N) (snap : Bank N) (sr : BitVec 32) (v : Voice N) : Visit N :=
  match lifeState v with
  | .free => ⟨v, none⟩
  | .pending => ⟨{ v with sus := v.sus - 1 }, none⟩
  | .sounding =>
    let r := drumAlgOf c snap sr v
    ⟨afterInvocation r, some r.sample⟩

/-! ### The pool -/

/-- The voice file after a tick; no record's visit touches another record (40_voice_pool.md R120). -/
def voicesAfter (c : Config N) (snap : Bank N) (sr : BitVec 32) (vs : Vector (Voice N) 32) : Vector (Voice N) 32 :=
  Vector.ofFn fun i => (voiceStep c snap sr (voiceAt vs i)).voice

/-- What the records contribute in a tick, in ascending slot order (R120, R124). -/
def poolOuts (c : Config N) (snap : Bank N) (sr : BitVec 32) (vs : Vector (Voice N) 32) : List (Option N) :=
  vs.toList.map fun v => (voiceStep c snap sr v).out

/-- The mono sum: a left fold from 0 over the sounding records (R124, 43_master_bus.md R192). -/
def monoSum (c : Config N) (outs : List (Option N)) : N :=
  (outs.filterMap id).foldl c.add c.zero

/-! ### The master stage (43_master_bus.md section 2) -/

/-- Step 1 (R193): the transient tracker. -/
def punchAfter (c : Config N) (punch mono : N) : N :=
  c.add punch (c.mul (c.lit 11 100) (c.sub mono punch))

/-- Step 1 (R193): the sum with its transients emphasised, from the updated tracker. -/
def emphasised (c : Config N) (mono punch' : N) : N :=
  c.add mono (c.mul (c.lit 95 100) (c.sub mono punch'))

/-- The global drive gain: `1 + 6.4 × G_DRIVE` (R195). -/
def masterDriveGain (c : Config N) (snap : Bank N) : N :=
  c.add c.one (c.mul (c.lit 64 10) (regRead snap gDrive))

/-- Step 2 (R195). -/
def masterDrive (c : Config N) (snap : Bank N) (m1 : N) : N :=
  driveStage c (masterDriveGain c snap) (c.mul (c.mul m1 (c.lit 62 100)) (masterDriveGain c snap))

/-- A one-pole low-pass update: `s + k × (x - s)` (R198). -/
def onePole (c : Config N) (k x s : N) : N := c.add s (c.mul k (c.sub x s))

/-- Steps 1 and 2: the sample after the drive stage, `m2`. -/
def mixedSample (c : Config N) (snap : Bank N) (mb : MasterBus N) (mono : N) : N :=
  masterDrive c snap (emphasised c mono (punchAfter c mb.punch mono))

/-- Steps 1 to 3 (R193, R195, R198): the three registers before the silence reset. -/
def busFiltered (c : Config N) (snap : Bank N) (mono : N) (mb : MasterBus N) : MasterBus N where
  punch := punchAfter c mb.punch mono
  lpL := onePole c (c.mtoneCoefL (regRead snap gTone)) (mixedSample c snap mb mono) mb.lpL
  lpR := onePole c (c.mtoneCoefR (regRead snap gTone))
    (c.mul (mixedSample c snap mb mono) (c.lit 997 1000)) mb.lpR

/-- The condition of the silence reset: no voice invoked and `abs(m2) < 1e-7` (R199). -/
def nearSilent (c : Config N) (any : Bool) (m2 : N) : Bool := !any && c.num.lt (c.num.abs m2) (c.lit 1 10000000)

/-- Steps 1 to 4 (R193 to R200). -/
def masterStep (c : Config N) (snap : Bank N) (mono : N) (any : Bool) (mb : MasterBus N) : MasterBus N :=
  if nearSilent c any (mixedSample c snap mb mono) then clearedBus c else busFiltered c snap mono mb

/-- Step 5 (R202): the frame, from the registers after step 4. -/
def frameOf (c : Config N) (mb : MasterBus N) : List N :=
  (List.range c.nch).map fun ch => if ch = 0 then mb.lpL else if ch = 1 then mb.lpR else c.zero

/-! ### The tick -/

/-- The master bus registers after a tick, of a pool and a bus. -/
def busAfter (c : Config N) (snap : Bank N) (sr : BitVec 32) (vs : Vector (Voice N) 32) (mb : MasterBus N) : MasterBus N :=
  let outs := poolOuts c snap sr vs
  masterStep c snap (monoSum c outs) (anyInvoked outs) mb

/-- One tick (R191). -/
def tick (c : Config Num32) (sr : BitVec 32) (s : State) : State :=
  { s with
    voices := voicesAfter c s.snap sr s.voices
    mb := busAfter c s.snap sr s.voices s.mb
    frames := s.frames ++ [frameOf c (busAfter c s.snap sr s.voices s.mb)] }

/-- `n` ticks (R190). -/
def ticks (c : Config Num32) (sr : BitVec 32) : Nat → State → State
  | 0, s => s
  | n + 1, s => ticks c sr n (tick c sr s)

end Sys2Proof.Machine
end

