-- ==== Sys2Proof/Machine/Ops.lean ====
section
/-! DEFINITION. The named operations that the commands are made of: the absorption that stands where another machine takes
an exception, allocation, parameter access, debug hits, the taking of words from the ports, and the snapshot. Each is written
over an arbitrary configuration (of the carrier that the state holds). -/

namespace Sys2Proof.Machine

/-! ### Absorption (60_exceptions.md R230, R239, R242) -/

/-- What DDVE does where another machine takes an exception: it raises nothing, saves nothing, changes no state and goes on
(R230, R242). `ILLEGAL` words (30_encoding.md R98), commands on the wrong port (R99), `NOP` (44_host_commands.md R210), and
unknown or NaN `SETP`s (R213) all end here. There is no return from it. -/
def ignored (s : State) : State := s

/-- A command permitted on AUD only: on CTL it is `ILLEGAL` (30_encoding.md R99, 60_exceptions.md R245). -/
def onAud (s : State) (effect : Host.Outcome State Fault Refusal) : Host.Outcome State Fault Refusal :=
  match s.port with
  | .aud => effect
  | .ctl => .next (ignored s)

/-! ### Single updates of the state -/

def setVoice (i : Fin 32) (v : Voice Num32) (s : State) : State := { s with voices := s.voices.set i v }

def countDraw (s : State) : State := { s with draws := s.draws + 1 }

def writePsh (id : Fin 46) (x : Num32) (s : State) : State := { s with psh := s.psh.set id x }

def setMask (m : BitVec 8) (s : State) : State := { s with dbgmask := m }

def latchSnap (b : Bank Num32) (s : State) : State := { s with snap := b }

def countSnap (s : State) : State := { s with snaps := s.snaps + 1 }

/-- `respond(w)`: one word on the response stream of a port (00_scope.md R9, 44_host_commands.md R216). -/
def respond (p : Port) (w : Word) (s : State) : State :=
  match p with
  | .aud => { s with audResp := s.audResp ++ [w] }
  | .ctl => { s with ctlResp := s.ctlResp ++ [w] }

/-- The words a fetch has taken, and the port whose command it found. -/
def takeWords (p : Port) (aud ctl : Option Word) (rest : List Arrival) (s : State) : State :=
  { s with audHeld := aud, ctlHeld := ctl, inbox := rest, port := p }

/-! ### Allocation (40_voice_pool.md section 2) -/

/-- The first inactive record, ascending from slot 0 (R111). -/
def firstFree (vs : Vector (Voice Num32) 32) : Option (Fin 32) :=
  (List.finRange 32).find? fun i => !(voiceAt vs i).active

/-- The record with the greatest `sidx`, the lowest slot on a tie: the comparison is strict (R112). -/
def oldest (vs : Vector (Voice Num32) 32) : Fin 32 :=
  (List.finRange 32).foldl (fun best i => if (voiceAt vs best).sidx.toNat < (voiceAt vs i).sidx.toNat then i else best) 0

/-- `select()` (R111, R112). -/
def select (vs : Vector (Voice Num32) 32) : Fin 32 :=
  match firstFree vs with
  | some i => i
  | none => oldest vs

/-- The record an allocation writes, every field of it (R113, R114). -/
def newVoice {N : Type} (c : Config N) (d : Draw N) (dt : DrumType) (vel : N) (off : Int) : Voice N where
  active := true
  dtype := some dt
  vel := velocityOf c vel
  sus := countdownOf off
  sidx := 0
  ph := #v[d.p0, d.p1, d.p2]
  ns := d.seed ||| 1
  tlp := c.zero

/-- An allocation with a given draw (R113). -/
def allocateWith (c : Config Num32) (d : Draw Num32) (dt : DrumType) (vel : Num32) (off : Int) (s : State) : State :=
  setVoice (select s.voices) (newVoice c d dt vel off) s

/-- `allocate(dt, vel, off)` (R111 to R117): the draw is the next one, and every draw is used once. -/
def allocate (c : Config Num32) (dt : DrumType) (vel : Num32) (off : Int) (s : State) : State :=
  countDraw (allocateWith c (c.draw s.draws) dt vel off s)

/-! ### Parameters and debug hits -/

/-- The effect of `SETP` (44_host_commands.md R213): an unknown id and a NaN are ignored. -/
def setParam (c : Config Num32) (pid : BitVec 6) (val : Word) (s : State) : State :=
  match regOf pid with
  | none => ignored s
  | some id =>
    match paramValue c id (numOfBits c val) with
    | none => ignored s
    | some x => writePsh id x s

/-- The word `GETP` answers (R215): the shadow register, or zero for an unknown id. -/
def paramWord (c : Config Num32) (pid : BitVec 6) (s : State) : Word :=
  match regOf pid with
  | none => 0
  | some id => numToBits c (regRead s.psh id)

/-- The effect of `GETP` issued on port `p` (R215). -/
def getParam (c : Config Num32) (p : Port) (pid : BitVec 6) (s : State) : State := respond p (paramWord c pid s) s

/-- The effect of `DBGHIT` (R219). -/
def requestHit (dt : DrumType) (s : State) : State := setMask (setHit s.dbgmask dt) s

/-- The allocations of a drain, in the order of the list (R217). -/
def playHits (c : Config Num32) (hits : List DrumType) (s : State) : State :=
  hits.foldl (fun s k => allocate c k (debugVelocity c) 0 s) s

/-- The drain of `DBGMASK` (R217, 20_memory.md R73): read and clear, then one allocation for each pending type, ascending. -/
def drainHits (c : Config Num32) (s : State) : State := playHits c (pendingHits s.dbgmask) (setMask 0 s)

/-- The effect of `PREPARE` (44_host_commands.md R211, 10_state.md R52). -/
def prepareState (c : Config Num32) (mb : BitVec 16) (sr : BitVec 32) (s : State) : State :=
  { s with voices := clearedVoices c, mb := clearedBus c, sr := some (rateOf sr), maxblk := mb }

/-! ### Words of the ports (00_scope.md R13, 20_memory.md R65, R68; log 12, 13, 16) -/

/-- What the words that have arrived give: no complete command yet, or the first command that becomes complete. -/
inductive Fetched where
  | waiting (aud ctl : Option Word)
  | command (p : Port) (w0 w1 : Word) (aud ctl : Option Word) (rest : List Arrival)
deriving DecidableEq, Repr

/-- Takes words in order of arrival. A port holds the first word of a two-word command until the second arrives, and the
other port goes on meanwhile (20_memory.md R65). -/
def fetchFrom (aud ctl : Option Word) : List Arrival → Fetched
  | [] => .waiting aud ctl
  | a :: rest =>
    match a.port with
    | .aud =>
      match aud with
      | some w0 => .command .aud w0 a.word none ctl rest
      | none =>
        if cmdWords a.word = 2 then fetchFrom (some a.word) ctl rest
        else .command .aud a.word 0 none ctl rest
    | .ctl =>
      match ctl with
      | some w0 => .command .ctl w0 a.word aud none rest
      | none =>
        if cmdWords a.word = 2 then fetchFrom aud (some a.word) rest
        else .command .ctl a.word 0 aud none rest

/-- The next command of a state. -/
def fetch (s : State) : Fetched := fetchFrom s.audHeld s.ctlHeld s.inbox

/-! ### CTL commands inside a SNAP, and the snapshot (20_memory.md R70, 44_host_commands.md R217; log 14) -/

/-- The complete CTL command that the words waiting next give, and the state after it is taken. -/
def nextCtl (s : State) : Option (Word × Word × State) :=
  match s.inbox with
  | [] => none
  | a :: rest =>
    match a.port with
    | .aud => none
    | .ctl =>
      match s.ctlHeld with
      | some w0 => some (w0, a.word, { s with ctlHeld := none, inbox := rest })
      | none =>
        if cmdWords a.word = 2 then
          match rest with
          | [] => none
          | b :: rest' =>
            match b.port with
            | .aud => none
            | .ctl => some (a.word, b.word, { s with inbox := rest' })
        else some (a.word, 0, { s with inbox := rest })

/-- The effect of a CTL command while AUD executes a SNAP. What CTL may not do is ignored (60_exceptions.md R245). -/
def ctlEffect (c : Config Num32) (d : Decoded) (s : State) : State :=
  match d with
  | .illegal _ => ignored s
  | .instr i =>
    match i with
    | .nop => ignored s
    | .prepare _ _ => ignored s
    | .setp pid val => setParam c pid val s
    | .getp pid => getParam c .ctl pid s
    | .snap => ignored s
    | .trig _ _ _ => ignored s
    | .render _ => ignored s
    | .dbghit dt => requestHit dt s
    | .reserved _ _ => ignored s

/-- The shadow banks that the reads of one SNAP can meet, oldest first, and the state after the overlapping commands. -/
structure Overlap where
  banks : List (Bank Num32)
  after : State
deriving DecidableEq, Repr

/-- Executes the CTL commands that fall inside the `n`-th SNAP: each waiting one that `c.snapOverlap` lets in. -/
def overlapCtl (c : Config Num32) (n : Nat) : Nat → Nat → State → Overlap
  | 0, _, s => ⟨[s.psh], s⟩
  | fuel + 1, j, s =>
    match nextCtl s with
    | none => ⟨[s.psh], s⟩
    | some (w0, w1, s') =>
      if c.snapOverlap n j then
        let r := overlapCtl c n fuel (j + 1) (ctlEffect c (decode w0 w1) s')
        ⟨s.psh :: r.banks, r.after⟩
      else ⟨[s.psh], s⟩

/-- The bank that a read meets, given how many of the overlapping commands came before it. -/
def bankAt (banks : List (Bank Num32)) (k : Nat) (now : Bank Num32) : Bank Num32 :=
  match banks with
  | [b] => b
  | _ => banks.getD (k % banks.length) now

/-- The 46 reads of the `n`-th SNAP. Each register is read once, after some number of the overlapping commands: any order of
the reads and any interleaving is such a choice (R70). With `SNAP_ATOMIC` the number is one for all. -/
def latched (c : Config Num32) (n : Nat) (banks : List (Bank Num32)) (now : Bank Num32) : Bank Num32 :=
  Vector.ofFn fun id =>
    regRead (bankAt banks (c.snapRead n (if c.snapAtomic then 46 else id.val)) now) id

/-- The effect of `SNAP` on AUD (R217): the reads, with CTL commands between them, then the drain. -/
def snapState (c : Config Num32) (s : State) : State :=
  let r := overlapCtl c s.snaps s.inbox.length 0 s
  drainHits c (countSnap (latchSnap (latched c s.snaps r.banks s.psh) r.after))

end Sys2Proof.Machine
end

