-- ==== Sys2Proof/Machine/HostCommands.lean ====
section
/-! DEFINITION. The meanings of `NOP`, `PREPARE`, `SETP`, `GETP`, `SNAP`, `DBGHIT` (44_host_commands.md) and of the
reserved opcodes (30_encoding.md R97, R98). -/

namespace Sys2Proof.Machine

/-- `NOP` (R210): nothing, on either port. -/
def execNop (s : State) : Host.Outcome State Fault Refusal := .next (ignored s)

/-- `PREPARE mb, sr` (R211): AUD only. -/
def execPrepare (mb : BitVec 16) (sr : BitVec 32) (s : State) : Host.Outcome State Fault Refusal :=
  onAud s (.next (prepareState cfg mb sr s))

/-- `SETP pid, val` (R213): both ports. -/
def execSetp (pid : BitVec 6) (val : Word) (s : State) : Host.Outcome State Fault Refusal :=
  .next (setParam cfg pid val s)

/-- `GETP pid` (R215): both ports; the response goes to the issuing port. -/
def execGetp (pid : BitVec 6) (s : State) : Host.Outcome State Fault Refusal :=
  .next (getParam cfg s.port pid s)

/-- `SNAP` (R217): AUD only. -/
def execSnap (s : State) : Host.Outcome State Fault Refusal := onAud s (.next (snapState cfg s))

/-- `DBGHIT dt` (R219): both ports. -/
def execDbghit (dt : DrumType) (s : State) : Host.Outcome State Fault Refusal := .next (requestHit dt s)

/-- Opcodes 8 to 15 (30_encoding.md R97, R98): executes as NOP, whatever the other bits. -/
def execReserved (_op : BitVec 4) (_ignored : BitVec 28) (s : State) : Host.Outcome State Fault Refusal :=
  .next (ignored s)

end Sys2Proof.Machine
end

