-- ==== Sys2Proof/Machine/Pool.lean ====
section
/-! DEFINITION. The meaning of `TRIG` (40_voice_pool.md R110). -/

namespace Sys2Proof.Machine

/-- `TRIG dt, vel, off` (R110): AUD only; it cannot fail. -/
def execTrig (dt : DrumType) (off : BitVec 24) (vel : Word) (s : State) : Host.Outcome State Fault Refusal :=
  onAud s (.next (allocate cfg dt (numOfBits cfg vel) (offsetOf off) s))

end Sys2Proof.Machine
end

