-- ==== Sys2Proof/Machine/Render.lean ====
section
/-! DEFINITION. The meaning of `RENDER` (43_master_bus.md R190). -/

namespace Sys2Proof.Machine

/-- The effect of `RENDER` on AUD: refused while `SR` is unwritten, whatever `n` (70_reset_and_hazards.md R262,
95_test_vectors.md V54), else `n` ticks. -/
def renderState (c : Config Num32) (n : Nat) (s : State) : Host.Outcome State Fault Refusal :=
  match s.sr with
  | none => .refused .renderBeforePrepare
  | some sr => .next (ticks c sr n s)

/-- `RENDER n` (R190): AUD only. -/
def execRender (n : BitVec 16) (s : State) : Host.Outcome State Fault Refusal :=
  onAud s (renderState cfg (frameCount n) s)

end Sys2Proof.Machine
end

