-- ==== Sys2Proof/Machine/Dispatch.lean ====
section
/-! DEFINITION. `exec`: one arm per constructor of `Instr`, each one call of a meaning. -/

namespace Sys2Proof.Machine

def exec (i : Instr) (s : State) : Host.Outcome State Fault Refusal :=
  match i with
  | .nop => Sys2Proof.Machine.execNop s
  | .prepare mb sr => Sys2Proof.Machine.execPrepare mb sr s
  | .setp pid val => Sys2Proof.Machine.execSetp pid val s
  | .getp pid => Sys2Proof.Machine.execGetp pid s
  | .snap => Sys2Proof.Machine.execSnap s
  | .trig dt off vel => Sys2Proof.Machine.execTrig dt off vel s
  | .render n => Sys2Proof.Machine.execRender n s
  | .dbghit dt => Sys2Proof.Machine.execDbghit dt s
  | .reserved op ignored => Sys2Proof.Machine.execReserved op ignored s

end Sys2Proof.Machine
end

