-- ==== Sys2Proof/Machine/Run.lean ====
section
/-! DEFINITION. What a step does with the command it has fetched; Step.lean only calls it. -/

namespace Sys2Proof.Machine

/-- Executes a decoded command: an instruction by `exec`, an `ILLEGAL` word as NOP (30_encoding.md R98). -/
def runDecoded (d : Decoded) (s : State) : Host.Outcome State Fault Refusal :=
  match d with
  | .instr i => exec i s
  | .illegal _ => .next (ignored s)

/-- One step given what was fetched: the words are consumed (R81, R98), then the command is executed to completion; with no
complete command the ports keep what they hold and wait (10_state.md R53, 20_memory.md R65). -/
def runFetched (f : Fetched) (s : State) : Host.Outcome State Fault Refusal :=
  match f with
  | .waiting aud ctl => .next (takeWords s.port aud ctl [] s)
  | .command p w0 w1 aud ctl rest => runDecoded (decode w0 w1) (takeWords p aud ctl rest s)

/-- The state in which the words of one command stand first in AUD's stream. -/
def placeCommand (ws : List Word) (s : State) : State :=
  { s with audHeld := none, inbox := ws.map (Arrival.mk .aud) ++ s.inbox }

end Sys2Proof.Machine
end

