-- ==== Sys2Proof/Machine/Step.lean ====
section
/-! DEFINITION. One step of the machine, and the placing of an instruction where the next step fetches it (log 12). -/

namespace Sys2Proof.Machine

/-- One step: the first command that the arrived words complete is executed (00_scope.md R13, 20_memory.md R68). -/
def step (s : State) : Host.Outcome State Fault Refusal := runFetched (fetch s) s

/-- The state whose next step runs the table word `w` as a command of AUD. -/
def State.withFetchWord (s : State) (nbits w : Nat) : State := placeCommand (tableWords nbits w) s

end Sys2Proof.Machine
end

