-- ==== Sys2Proof/Safety.lean ====
section
/-! DEFINITION. The terms in which claims speak of a good configuration and a good state: the properties that the spec lets
a model assume of its parameters (00_scope.md R12, 10_state.md R38, 42_drum_generators.md R170, and the rules named below),
two properties that R12 does not give, the invariants of the state (10_state.md R30, R36, R40, R48), and what it takes for
no NaN and no infinity to arise. All of it is said of binary32, the carrier of the state (log 1). -/

namespace Sys2Proof.Machine

/-! ### Configurations -/

/-- Finite and not negative (R170, gains). -/
abbrev IsGain (x : Num32) : Prop := F32.isFinite x = true ∧ F32.le 0 x = true

/-- Finite and positive (R170, time constants and frequencies; 93 U9, the floors). -/
abbrev IsPositive (x : Num32) : Prop := F32.isFinite x = true ∧ F32.lt 0 x = true

/-- `lo ≤ x ≤ hi`. -/
abbrev Within (lo x hi : Num32) : Prop := F32.le lo x = true ∧ F32.le x hi = true

/-- Magnitude at most one. -/
abbrev UnitMagnitude (x : Num32) : Prop := F32.le (F32.abs x) one = true

/-- The constraints on the patch ROM (42_drum_generators.md R170; 93 U5, and U6 for the constants that are exact). -/
structure RomWf (r : Rom Num32) : Prop where
  gains : ∀ g ∈ [r.kThumpG, r.kSubG, r.kClickG, r.sBodyG, r.sNoiseG, r.sCrackG, r.chNoiseG, r.chPartG, r.ohNoiseG,
    r.ohPartG, r.crPg0, r.crPg1, r.crPg2, r.crNoiseG, r.rdPingG, r.rdTailG, r.rdNoiseG, r.clG, r.rmPartG, r.rmTickG],
    IsGain g
  positives : ∀ x ∈ [r.kFHi, r.kFLo, r.kSweepTau, r.kAmpTau, r.kClickTau, r.sFHi, r.sFLo, r.sSweepTau, r.sBodyTau,
    r.sNoiseTau, r.sCrackTau, r.chRatio, r.chF0, r.chTau, r.ohF0, r.ohR1, r.ohR2, r.ohTau, r.crAtt, r.crF0, r.crF1,
    r.crF2, r.crPtau0, r.crPtau1, r.crPtau2, r.crNoiseTau, r.rdAtt, r.rdPingF, r.rdTailF, r.rdPingTau, r.rdTailTau,
    r.rdNoiseTau, r.clBurstTau, r.rmRatio, r.rmF0, r.rmTau, r.rmTickTau],
    IsPositive x
  crack_shorter : F32.lt r.sCrackTau r.sNoiseTau = true
  open_hat_slower : F32.lt r.chTau r.ohTau = true
  exact_pitches : r.kFLo = F32.lit 46 1 ∧ r.chRatio = F32.lit 1733 1000
  exact_bursts : r.clOn0 = 0 ∧ r.clOn1 = F32.lit 12 1000 ∧ r.clOn2 = F32.lit 22 1000 ∧ r.clLimit = one

/-- What a model may assume of a configuration over binary32. -/
structure ConfigWf (c : Config Num32) : Prop where
  /-- The format is binary32 (00_scope.md R6; log 1). -/
  binary32 : c.num = F32.format
  /-- 00_scope.md R12. -/
  tanh_odd : ∀ x, F32.isNaN x = false → c.tanh (F32.neg x) = F32.neg (c.tanh x)
  tanh_mono : ∀ x y, F32.le x y = true → F32.le (c.tanh x) (c.tanh y) = true
  tanh_zero : c.tanh 0 = 0
  tanh_bound : ∀ x, F32.isNaN x = false → UnitMagnitude (c.tanh x)
  /-- 41_voice_synthesis.md R156. -/
  tanh_nan : ∀ x, F32.isNaN x = true → F32.isNaN (c.tanh x) = true
  /-- R12. -/
  sin_bound : ∀ x, F32.isFinite x = true → UnitMagnitude (c.sin x)
  exp_range : ∀ x, F32.isFinite x = true → F32.le x 0 = true → F32.inUnit (c.exp x) = true
  exp2_pos : ∀ x, F32.isFinite x = true → F32.lt 0 (c.exp2 x) = true
  sqrt_ge_one : ∀ x, F32.le one x = true → F32.le one (c.sqrt x) = true
  /-- 10_state.md R38. -/
  pspec_order : ∀ id, F32.isFinite (c.pspec id).lo = true ∧ F32.isFinite (c.pspec id).hi = true ∧
    Within (c.pspec id).lo (c.pspec id).dflt (c.pspec id).hi
  /-- 93 U4: tone and drive ranges lie inside [0, 1], level ranges are not negative. -/
  tone_drive_unit : ∀ id ∈ gTone :: gDrive :: (drumTypes.map dTone ++ drumTypes.map dDrive),
    F32.inUnit (c.pspec id).lo = true ∧ F32.inUnit (c.pspec id).hi = true
  level_lo : ∀ id ∈ drumTypes.map dLevel, F32.le 0 (c.pspec id).lo = true
  /-- 41_voice_synthesis.md R152. -/
  vtone_coef : ∀ x, F32.inUnit x = true → Within (F32.lit 2 100) (c.vtoneCoef x) (F32.lit 62 100)
  vtone_mix : ∀ x, F32.inUnit x = true → F32.inUnit (c.vtoneMix x) = true
  /-- 43_master_bus.md R197. -/
  mtone_left : ∀ x, F32.inUnit x = true → Within (F32.lit 14 100) (c.mtoneCoefL x) (F32.lit 52 100)
  mtone_right : ∀ x, F32.inUnit x = true → F32.lt 0 (c.mtoneCoefR x) = true ∧ F32.lt (c.mtoneCoefR x) one = true
  /-- 93 U9. -/
  floors : IsPositive c.epsDecay ∧ IsPositive c.epsHat ∧ IsPositive c.epsTau
  rom : RomWf c.rom
  /-- 40_voice_pool.md R114. -/
  draws : ∀ n, F32.isPhase (c.draw n).p0 = true ∧ F32.isPhase (c.draw n).p1 = true ∧ F32.isPhase (c.draw n).p2 = true

/-! ### Properties that R12 does not give: a statement that needs one has it as a premise (log 3) -/

/-- The envelope's value 1 at time 0 and its fall (41_voice_synthesis.md R149), as properties of `NUM.exp`. -/
structure ExpFalls (c : Config Num32) : Prop where
  at_zero : ∀ x, F32.isZero x = true → c.exp x = one
  falls : ∀ x y, F32.isFinite x = true → F32.le x y = true → F32.le y 0 = true →
    F32.le (c.exp x) (c.exp y) = true

/-- The examples of 41_voice_synthesis.md R141 that are exact powers of two, as values of `NUM.exp2`. -/
structure Exp2Exact (c : Config Num32) : Prop where
  at_zero : ∀ x, F32.isZero x = true → c.exp2 x = one
  at_one : c.exp2 one = F32.lit 2 1
  at_minus_one : c.exp2 (F32.litNeg 1 1) = F32.lit 1 2
  at_two : c.exp2 (F32.lit 2 1) = F32.lit 4 1
  at_minus_two : c.exp2 (F32.litNeg 2 1) = F32.lit 1 4

/-! ### Configurations under which nothing overflows -/

/-- `RAWMAX[k]` (42_drum_generators.md R171 to R178): the sum of the gains of a generator, in the order in which it adds its
components. -/
def rawMax {N : Type} (c : Config N) : DrumType → N
  | .kick => c.add (c.add c.rom.kThumpG c.rom.kSubG) c.rom.kClickG
  | .snare => c.add c.rom.sBodyG (c.add c.rom.sNoiseG c.rom.sCrackG)
  | .closedHat => c.add c.rom.chNoiseG (c.mul c.rom.chPartG (c.lit 2 1))
  | .openHat => c.add c.rom.ohNoiseG (c.mul c.rom.ohPartG (c.lit 3 1))
  | .crash => c.add (c.add (c.add c.rom.crPg0 c.rom.crPg1) c.rom.crPg2) c.rom.crNoiseG
  | .ride => c.add (c.add c.rom.rdPingG c.rom.rdTailG) c.rom.rdNoiseG
  | .clap => c.rom.clG
  | .rim => c.add (c.mul c.rom.rmPartG (c.lit 2 1)) c.rom.rmTickG

/-- Magnitude at most 2^126: a difference of two such values is finite. -/
abbrev Moderate (x : Num32) : Prop := F32.le (F32.abs x) 0x7E800000 = true

/-- Not above 2^20. -/
abbrev AtMostMega (x : Num32) : Prop := F32.le x 0x49800000 = true

/-- Constants of ordinary size. 93 U21 leaves a value that overflows outside the spec's constraints; these bounds, generous
against any audible setting, are the model's way of saying that none does (DESIGN CHOICE, log 29). -/
structure Tame (c : Config Num32) : Prop where
  raw : ∀ k, Moderate (rawMax c k)
  frequencies : ∀ f ∈ [c.rom.kFHi, c.rom.kFLo, c.rom.sFHi, c.rom.sFLo, c.rom.chF0, c.rom.chRatio, c.rom.ohF0, c.rom.ohR1,
    c.rom.ohR2, c.rom.crF0, c.rom.crF1, c.rom.crF2, c.rom.rdPingF, c.rom.rdTailF, c.rom.rmF0, c.rom.rmRatio],
    AtMostMega f
  tuning : ∀ id ∈ gTune :: drumTypes.map dTune,
    Within (F32.litNeg 24 1) (c.pspec id).lo (F32.lit 24 1) ∧ Within (F32.litNeg 24 1) (c.pspec id).hi (F32.lit 24 1)
  exp2 : ∀ x, Within (F32.litNeg 4 1) x (F32.lit 4 1) → AtMostMega (c.exp2 x)
  /-- `EPS_TAU` is at least 2^-64. -/
  tau : F32.le 0x1F800000 c.epsTau = true

/-! ### States -/

/-- A phase accumulator: in [0, 1), or a NaN where a configured constant made a frequency overflow (10_state.md R27, R30;
93 U21; log 29). -/
abbrev PhaseOk (x : Num32) : Prop := F32.isNaN x = true ∨ F32.isPhase x = true

/-- The invariants of one record (10_state.md R30 c, d). -/
abbrev VoiceOk (v : Voice Num32) : Prop :=
  v.active = true →
    v.dtype.isSome = true ∧ F32.inUnit v.vel = true ∧ v.ns ≠ 0 ∧ (v.sus ≠ 0 → v.sidx = 0 ∧ v.tlp = 0)

/-- The phases of every active record (10_state.md R30 c). -/
abbrev PhasesOk (vs : Vector (Voice Num32) 32) : Prop :=
  ∀ i : Fin 32, (voiceAt vs i).active = true → ∀ j : Fin 3, PhaseOk (voiceAt vs i).ph[j]

/-- Every record satisfies R30 but for its phases. -/
abbrev PoolOk (vs : Vector (Voice Num32) 32) : Prop := ∀ i : Fin 32, VoiceOk (voiceAt vs i)

/-- No register of a bank is outside its range or a NaN (10_state.md R36). -/
abbrev BankOk (c : Config Num32) (b : Bank Num32) : Prop :=
  ∀ id : Fin 46, Within (c.pspec id).lo (regRead b id) (c.pspec id).hi

/-- The sample rate, once written, is at least 8000 (10_state.md R40). -/
abbrev RateOk (sr : Option (BitVec 32)) : Prop := ∀ r ∈ sr, 8000 ≤ r.toNat

/-- What a port holds is the first word of a two-word command (20_memory.md R65). -/
abbrev HeldOk (held : Option Word) : Prop := ∀ w ∈ held, cmdWords w = 2

/-- The state invariant under a configuration: R30 for every record, R36 for both banks, R40, and what the ports hold. -/
structure InvOf (c : Config Num32) (s : State) : Prop where
  pool : PoolOk s.voices
  shadow : BankOk c s.psh
  snapshot : BankOk c s.snap
  rate : RateOk s.sr
  heldAud : HeldOk s.audHeld
  heldCtl : HeldOk s.ctlHeld

/-- The invariant of this machine. -/
abbrev Inv (s : State) : Prop := InvOf cfg s

/-- A sample that is no larger than one in magnitude, or a NaN (43_master_bus.md R203: the bound holds "provided no NaN
enters"). -/
abbrev SampleOk (x : Num32) : Prop := F32.isNaN x = true ∨ UnitMagnitude x

/-- The filter states and every sample emitted so far are bounded (43_master_bus.md R203). -/
structure OutputBounded (s : State) : Prop where
  left : SampleOk s.mb.lpL
  right : SampleOk s.mb.lpR
  emitted : ∀ f ∈ s.frames, ∀ x ∈ f, SampleOk x

/-- The master bus as a render leaves it when no NaN enters: the tracker bounded by the number of voices, the filter states by
one (43_master_bus.md R192, R203). -/
structure BusClean (mb : MasterBus Num32) : Prop where
  punch : F32.le (F32.abs mb.punch) 0x42000000 = true
  left : UnitMagnitude mb.lpL
  right : UnitMagnitude mb.lpR

/-- The bus and every sample emitted so far are bounded, and none is a NaN (43_master_bus.md R203). -/
structure OutputClean (s : State) : Prop where
  bus : BusClean s.mb
  emitted : ∀ f ∈ s.frames, ∀ x ∈ f, UnitMagnitude x

/-- A record whose sound is made of numbers: phases in [0, 1) (10_state.md R27), a filter state of moderate size. -/
abbrev VoiceClean (v : Voice Num32) : Prop :=
  v.active = true → (∀ j : Fin 3, F32.isPhase v.ph[j] = true) ∧ Moderate v.tlp

/-- No NaN and no infinity anywhere in the sound: the invariant, clean records and a clean output. -/
structure SoundClean (c : Config Num32) (s : State) : Prop where
  inv : InvOf c s
  voices : ∀ i : Fin 32, VoiceClean (voiceAt s.voices i)
  output : OutputClean s

/-- No CTL command is waiting to fall inside the next AUD command: the next word, if any, is AUD's. -/
abbrev NoCtlNext (s : State) : Prop := (nextCtl s).isNone = true

end Sys2Proof.Machine
end

