-- ==== Sys2Proof/Certificates/Slice0/Obligations.lean ====
section
/-! DEFINITION. What is stated of the model, for the provers. A statement cites the rule of spec/ that it formalises; where
it rests on a choice of the model it says so and names the log entry. -/

open Sys2Proof Sys2Proof.Machine

/-! ### Encoding (30_encoding.md) -/

/-- Decoding the words of a well-formed instruction, whatever words follow, gives it back (30_encoding.md section 1). -/
def Obligations.DecodeEncodeRoundTrip : Prop :=
  ∀ (i : Instr) (rest : List Word), i.wellFormed = true →
    decodeWords (encode i ++ rest) = .command (.instr i) rest

/-- Every word has one meaning: the words that decode to an instruction are the words the encoder writes for it. -/
def Obligations.EncodeOfDecodedWords : Prop :=
  ∀ (w0 w1 : Word) (i : Instr), decode w0 w1 = .instr i →
    i.wellFormed = true ∧ encode i = if cmdWords w0 = 2 then [w0, w1] else [w0]

/-- R90, R96: a word of opcode 0 to 7 is `ILLEGAL` exactly when no row of the opcode map selects it. -/
def Obligations.IllegalIffNoOpcodeRowMatches : Prop :=
  ∀ w0 w1 : Word,
    decode w0 w1 = .illegal (.reservedBits (cmdOp w0)) ↔
      (cmdOp w0).toNat < 8 ∧
        ∀ row ∈ [((0x00000000 : Word), (0xFFFFFFFF : Word)), (0x10000000, 0xFFFF0000), (0x20000000, 0xFFFFFFC0),
            (0x30000000, 0xFFFFFFC0), (0x40000000, 0xFFFFFFFF), (0x50000000, 0xF8000000), (0x60000000, 0xFFFF0000),
            (0x70000000, 0xF8FFFFFF)],
          w0 &&& row.2 ≠ row.1

/-- R81: the opcode alone decides how many words a command takes, whether or not it is illegal. -/
def Obligations.LengthDecidedByOpcode : Prop :=
  ∀ (w0 w1 : Word) (rest : List Word),
    decodeWords (w0 :: w1 :: rest) =
      if w0.extractLsb' 28 4 = 1 ∨ w0.extractLsb' 28 4 = 2 ∨ w0.extractLsb' 28 4 = 5
      then .command (decode w0 w1) rest else .command (decode w0 0) (w1 :: rest)

/-- R64: words carried over a byte transport come back, in either byte order, and this machine's `CMD_BYTE_ORDER` sends the
least significant byte first (log 24). -/
def Obligations.ByteTransportGivesWordsBack : Prop :=
  (∀ (o : ByteOrder) (ws : List Word), wordsOfBytes o (ws.flatMap (bytesOfWord o)) = ws) ∧
    ∀ w : Word, bytesOfWord cfg.cmdByteOrder w =
      [w.extractLsb' 0 8, w.extractLsb' 8 8, w.extractLsb' 16 8, w.extractLsb' 24 8]

/-- R106: worked encodings decode to the commands they stand for. The table calls 0xF0000000 `ILLEGAL`; that a word of opcode
8 to 15 decodes to the instruction `reserved`, which does nothing, is the model's choice (log 21). -/
def Obligations.WorkedEncodingsDecode : Prop :=
  decode 0x10000200 0x0000AC44 = .instr (.prepare 512 44100) ∧
  decode 0x20000008 0x3F800000 = .instr (.setp 8 0x3F800000) ∧
  decode 0x30000008 0 = .instr (.getp 8) ∧
  decode 0x40000000 0 = .instr .snap ∧
  decode 0x51FFFFFF 0x3F000000 = .instr (.trig .snare (-1) 0x3F000000) ∧
  decode 0x57000064 0x3F733333 = .instr (.trig .rim 100 0x3F733333) ∧
  decode 0x60000200 0 = .instr (.render 512) ∧
  decode 0x74000000 0 = .instr (.dbghit .crash) ∧
  decode 0x08000000 0 = .illegal (.reservedBits 0) ∧
  decode 0x28000000 0 = .illegal (.reservedBits 2) ∧
  decode 0x74000001 0 = .illegal (.reservedBits 7) ∧
  decode 0xF0000000 0 = .instr (.reserved 15 0)

/-! ### Steps and ports (00_scope.md R13, 20_memory.md R65, R68; log 12, 16) -/

/-- A step runs the decoded instruction: the words are taken, the port is noted, and `exec` gives the outcome. -/
def Obligations.StepRunsDecodedInstruction : Prop :=
  ∀ (s : State) (p : Port) (w0 w1 : Word) (aud ctl : Option Word) (rest : List Arrival) (i : Instr),
    fetch s = .command p w0 w1 aud ctl rest → decode w0 w1 = .instr i →
    step s = exec i { s with audHeld := aud, ctlHeld := ctl, inbox := rest, port := p }

/-- The words of a well-formed instruction that stand first for a port which holds nothing are run by the next step, as a
command of that port, and nothing else of the state is used up. -/
def Obligations.StepRunsEncodedCommand : Prop :=
  ∀ (s : State) (i : Instr) (rest : List Arrival), i.wellFormed = true →
    (s.audHeld = none → s.inbox = (encode i).map (Arrival.mk .aud) ++ rest →
      step s = exec i { s with inbox := rest, port := .aud }) ∧
    (s.ctlHeld = none → s.inbox = (encode i).map (Arrival.mk .ctl) ++ rest →
      step s = exec i { s with inbox := rest, port := .ctl })

/-- R98: a command with a reserved bit or of a reserved opcode is consumed, on either port, and nothing else happens. -/
def Obligations.IllegalWordChangesNothing : Prop :=
  ∀ (s : State) (p : Port) (w0 w1 : Word) (aud ctl : Option Word) (rest : List Arrival),
    fetch s = .command p w0 w1 aud ctl rest →
    ((∃ why, decode w0 w1 = .illegal why) ∨ ∃ op ignoredBits, decode w0 w1 = .instr (.reserved op ignoredBits)) →
    step s = .next { s with audHeld := aud, ctlHeld := ctl, inbox := rest, port := p }

/-- R65: with only the first word of a two-word command the port holds it and nothing executes; the other port's command
runs meanwhile; the second word completes the command, on either port; with no word waiting the machine holds its state,
whatever the ports hold, for ever. -/
def Obligations.HalfCommandWaits : Prop :=
  ∀ (s : State) (w : Word), (s.inbox = [] → step s = .next s) ∧ (cmdWords w = 2 →
    (s.audHeld = none → s.inbox = [⟨.aud, w⟩] → step s = .next { s with audHeld := some w, inbox := [] }) ∧
    (s.ctlHeld = none → s.inbox = [⟨.ctl, w⟩] → step s = .next { s with ctlHeld := some w, inbox := [] }) ∧
    ∀ (v : Word) (rest : List Arrival) (i : Instr),
      (s.audHeld = some w → s.ctlHeld = none → s.inbox = ⟨.ctl, v⟩ :: rest → cmdWords v = 1 → decode v 0 = .instr i →
        step s = exec i { s with inbox := rest, port := .ctl }) ∧
      (s.ctlHeld = some w → s.audHeld = none → s.inbox = ⟨.aud, v⟩ :: rest → cmdWords v = 1 → decode v 0 = .instr i →
        step s = exec i { s with inbox := rest, port := .aud }) ∧
      (s.audHeld = some w → s.inbox = ⟨.aud, v⟩ :: rest → decode w v = .instr i →
        step s = exec i { s with audHeld := none, inbox := rest, port := .aud }) ∧
      (s.ctlHeld = some w → s.inbox = ⟨.ctl, v⟩ :: rest → decode w v = .instr i →
        step s = exec i { s with ctlHeld := none, inbox := rest, port := .ctl }))

/-- R230, R238: a step never faults, and it is refused only when AUD's command is a `RENDER` while `SR` is unwritten. -/
def Obligations.StepNeverFaults : Prop :=
  ∀ s : State,
    (∃ t, step s = .next t) ∨
    (step s = .refused .renderBeforePrepare ∧ s.sr = none ∧
      ∃ w0 w1 aud ctl rest n, fetch s = .command .aud w0 w1 aud ctl rest ∧ decode w0 w1 = .instr (.render n))

/-! ### Host commands (44_host_commands.md) -/

/-- R97, R210: `NOP` and the reserved opcodes change nothing, on either port. -/
def Obligations.NopAndReservedChangeNothing : Prop :=
  ∀ s : State, exec .nop s = .next s ∧
    ∀ (op : BitVec 4) (ignoredBits : BitVec 28), exec (.reserved op ignoredBits) s = .next s

/-- R52, R211: `PREPARE` on AUD frees and clears every record, zeroes the bus, writes the rate with its floor and the block
size, and leaves both banks, the debug mask, the streams and everything else. -/
def Obligations.PrepareResetsVoicesAndBus : Prop :=
  ∀ (s : State) (mb : BitVec 16) (sr : BitVec 32), s.port = .aud →
    exec (.prepare mb sr) s = .next
      { s with
        voices := Vector.replicate 32 ⟨false, none, 0, 0, 0, #v[0, 0, 0], 1, 0⟩
        mb := ⟨0, 0, 0⟩
        sr := some (BitVec.ofNat 32 (max 8000 sr.toNat))
        maxblk := mb }

/-- R99, R245: the four commands of AUD are ignored on CTL. -/
def Obligations.AudCommandsIgnoredOnCtl : Prop :=
  ∀ s : State, s.port = .ctl →
    (∀ mb sr, exec (.prepare mb sr) s = .next s) ∧ exec .snap s = .next s ∧
    (∀ dt off vel, exec (.trig dt off vel) s = .next s) ∧ ∀ n, exec (.render n) s = .next s

/-- R213: `SETP` stores the operand clamped into the register's range and writes nothing else; what it stores is in the
range, is the operand itself when that is in the range, and is an end of the range for the infinities; an unknown id and
a NaN are ignored. R214: repeating a `SETP` changes nothing more. -/
def Obligations.SetpStoresClampedValue : Prop :=
  ∀ (s : State) (pid : BitVec 6) (val : Word),
    (∀ h : pid.toNat < 46, F32.isNaN val = false →
      ∃ x, exec (.setp pid val) s = .next { s with psh := s.psh.set pid.toNat x } ∧
        Within (cfg.pspec ⟨pid.toNat, h⟩).lo x (cfg.pspec ⟨pid.toNat, h⟩).hi ∧
        (Within (cfg.pspec ⟨pid.toNat, h⟩).lo val (cfg.pspec ⟨pid.toNat, h⟩).hi → x = val) ∧
        (F32.lt val (cfg.pspec ⟨pid.toNat, h⟩).lo = true → x = (cfg.pspec ⟨pid.toNat, h⟩).lo) ∧
        (F32.lt (cfg.pspec ⟨pid.toNat, h⟩).hi val = true → x = (cfg.pspec ⟨pid.toNat, h⟩).hi)) ∧
    (F32.isNaN val = true → exec (.setp pid val) s = .next s) ∧
    (46 ≤ pid.toNat → exec (.setp pid val) s = .next s) ∧
    ∀ t, exec (.setp pid val) s = .next t → exec (.setp pid val) t = .next t

/-- R215: `GETP` appends one word to the stream of the issuing port and changes nothing else: the shadow register as a
binary32 word, or zero for an unknown id. The word of a register in its range is in that range. -/
def Obligations.GetpAnswersShadowRegister : Prop :=
  ∀ (s : State) (pid : BitVec 6),
    let w : Word := if h : pid.toNat < 46 then (if F32.isNaN s.psh[pid.toNat] then 0x7FC00000 else s.psh[pid.toNat]) else 0
    (s.port = .aud → exec (.getp pid) s = .next { s with audResp := s.audResp ++ [w] }) ∧
    (s.port = .ctl → exec (.getp pid) s = .next { s with ctlResp := s.ctlResp ++ [w] }) ∧
    ∀ h : pid.toNat < 46, Within (cfg.pspec ⟨pid.toNat, h⟩).lo s.psh[pid.toNat] (cfg.pspec ⟨pid.toNat, h⟩).hi →
      Within (cfg.pspec ⟨pid.toNat, h⟩).lo w (cfg.pspec ⟨pid.toNat, h⟩).hi ∧ F32.isNaN w = false

/-- R69: once a `SETP` of either port has executed, a `GETP` of that id on either port answers the value it stored, and a
`GETP` of another id answers what it did before. -/
def Obligations.WriteVisibleOnBothPorts : Prop :=
  ∀ (s t : State) (pid : BitVec 6) (val : Word) (q : Port) (h : pid.toNat < 46), F32.isNaN val = false →
    exec (.setp pid val) s = .next t →
    exec (.getp pid) { t with port := q } = .next (respond q
        (cfg.clamp val (cfg.pspec ⟨pid.toNat, h⟩).lo (cfg.pspec ⟨pid.toNat, h⟩).hi) { t with port := q }) ∧
      ∀ other, other ≠ pid → paramWord cfg other t = paramWord cfg other s

/-- R219, R42: `DBGHIT` sets the bit of its type and no other bit, changes nothing else, and a second one before a drain
changes nothing. -/
def Obligations.DbghitSetsOneBit : Prop :=
  ∀ (s : State) (dt : DrumType),
    exec (.dbghit dt) s = .next { s with dbgmask := s.dbgmask ||| (1#8 <<< (drumCode dt).toNat) } ∧
    (∀ k : DrumType, hitPending (setHit s.dbgmask dt) k = (decide (k = dt) || hitPending s.dbgmask k)) ∧
    ∀ t, exec (.dbghit dt) s = .next t → exec (.dbghit dt) t = .next t

/-- R217: a `SNAP` with no CTL command inside it copies the shadow bank, clears the debug mask, plays the pending hits in
ascending type order at velocity 0.95 and offset 0, and changes nothing else but the model's counters (log 10, 14). -/
def Obligations.SnapCopiesAndDrains : Prop :=
  ∀ s : State, s.port = .aud → NoCtlNext s →
    ∃ vs, exec .snap s = .next
        { s with
          snap := s.psh
          dbgmask := 0
          voices := vs
          draws := s.draws + (drumTypes.filter (hitPending s.dbgmask)).length
          snaps := s.snaps + 1 } ∧
      vs = ((drumTypes.filter (hitPending s.dbgmask)).foldl (fun u k => allocate cfg k (F32.lit 95 100) 0 u) s).voices

/-- R217, R111: on an empty pool the pending hits take the slots from 0 up, in type order, at velocity 0.95, and the other
records stay. -/
def Obligations.SnapPlaysHitsInTypeOrder : Prop :=
  ∀ s : State, s.port = .aud → NoCtlNext s → (∀ i : Fin 32, (voiceAt s.voices i).active = false) →
    ∃ t, exec .snap s = .next t ∧
      ∀ j : Fin 32,
        if h : j.val < (pendingHits s.dbgmask).length then
          (voiceAt t.voices j).active = true ∧
          (voiceAt t.voices j).dtype = some ((pendingHits s.dbgmask)[j.val]) ∧
          (voiceAt t.voices j).vel = F32.lit 95 100 ∧ (voiceAt t.voices j).sus = 0 ∧
          (voiceAt t.voices j).sidx = 0 ∧ (voiceAt t.voices j).tlp = 0
        else voiceAt t.voices j = voiceAt s.voices j

/-- R70: whatever CTL commands fall inside a SNAP, every register of the snapshot is the shadow register as it stood before
some of them and after the others; with `SNAP_ATOMIC` all 46 are of one moment. -/
def Obligations.SnapReadsEachRegisterAtOneMoment : Prop :=
  (∀ s : State, s.port = .aud → exec .snap s = .next (snapState cfg s)) ∧
  ∀ (c : Config Num32) (s : State),
    let r := overlapCtl c s.snaps s.inbox.length 0 s
    r.banks.head? = some s.psh ∧ r.banks.getLast? = some r.after.psh ∧ (snapState c s).psh = r.after.psh ∧
    (∀ id : Fin 46, ∃ b ∈ r.banks, regRead (snapState c s).snap id = regRead b id) ∧
    (c.snapAtomic = true → ∃ b ∈ r.banks, (snapState c s).snap = b)

/-- R70: nothing forbids a mixed snapshot. Any choice of a moment for each register is what some order of the reads gives. -/
def Obligations.SnapshotMayMixOldAndNew : Prop :=
  ∀ (c : Config Num32) (s : State) (moment : Fin 46 → Nat), c.snapAtomic = false →
    let banks := (overlapCtl c s.snaps s.inbox.length 0 s).banks
    (∀ id, moment id < banks.length) →
    ∃ reads : Nat → Nat → Nat, ∀ id : Fin 46,
      regRead (snapState { c with snapRead := reads } s).snap id = regRead (banks.getD (moment id) s.psh) id

/-! ### Allocation (40_voice_pool.md) -/

/-- R111, R113: `TRIG` with a free record takes the lowest free slot and rewrites every field of it, and nothing else but
the draw counter changes (log 10). -/
def Obligations.TrigTakesLowestFreeSlot : Prop :=
  ∀ (s : State) (dt : DrumType) (off : BitVec 24) (vel : Word) (i : Fin 32), s.port = .aud →
    (voiceAt s.voices i).active = false → (∀ j : Fin 32, j < i → (voiceAt s.voices j).active = true) →
    exec (.trig dt off vel) s = .next
      { s with
        voices := s.voices.set i
          { active := true
            dtype := some dt
            vel := velocityOf cfg vel
            sus := BitVec.ofNat 32 (max 0 off.toInt).toNat
            sidx := 0
            ph := #v[(cfg.draw s.draws).p0, (cfg.draw s.draws).p1, (cfg.draw s.draws).p2]
            ns := (cfg.draw s.draws).seed ||| 1
            tlp := 0 }
        draws := s.draws + 1 }

/-- R112, R113: with no free record `TRIG` takes the one with the greatest age, the lowest slot on a tie. -/
def Obligations.TrigStealsOldestLowestSlot : Prop :=
  ∀ (s : State) (dt : DrumType) (off : BitVec 24) (vel : Word) (i : Fin 32), s.port = .aud →
    (∀ j : Fin 32, (voiceAt s.voices j).active = true) →
    (∀ j : Fin 32, (voiceAt s.voices j).sidx ≤ (voiceAt s.voices i).sidx) →
    (∀ j : Fin 32, j < i → (voiceAt s.voices j).sidx < (voiceAt s.voices i).sidx) →
    exec (.trig dt off vel) s = .next
      { s with
        voices := s.voices.set i
          { active := true
            dtype := some dt
            vel := velocityOf cfg vel
            sus := BitVec.ofNat 32 (max 0 off.toInt).toNat
            sidx := 0
            ph := #v[(cfg.draw s.draws).p0, (cfg.draw s.draws).p1, (cfg.draw s.draws).p2]
            ns := (cfg.draw s.draws).seed ||| 1
            tlp := 0 }
        draws := s.draws + 1 }

/-- R117: an allocation changes exactly one record, and the number of active records becomes `min(32, before + 1)`. -/
def Obligations.AllocateChangesOneRecord : Prop :=
  ∀ (c : Config Num32) (dt : DrumType) (vel : Num32) (off : Int) (s : State),
    activeCount (allocate c dt vel off s).voices = min 32 (activeCount s.voices + 1) ∧
    (∀ j : Fin 32, j ≠ select s.voices →
      voiceAt (allocate c dt vel off s).voices j = voiceAt s.voices j) ∧
    (voiceAt (allocate c dt vel off s).voices (select s.voices)).active = true

/-- R114: for every draw that the configuration may give, the phases lie in [0, 1) and the noise state is odd. -/
def Obligations.DrawnPhasesAndSeedInRange : Prop :=
  ∀ (c : Config Num32) (dt : DrumType) (vel : Num32) (off : Int) (s : State), ConfigWf c →
    let v := voiceAt (allocate c dt vel off s).voices (select s.voices)
    F32.isPhase v.ph[0] = true ∧ F32.isPhase v.ph[1] = true ∧ F32.isPhase v.ph[2] = true ∧
      v.ns.getLsbD 0 = true ∧ v.ns ≠ 0

/-- R10, R113, R119, R232: an allocation stores a velocity in [0, 1]: a NaN or a negative operand gives 0, one above 1 gives
1, one in the range is kept (but for the sign of a zero made from -0, which is open: log 11). R91, R113, R31: its countdown
is the signed offset clamped at 0, below 2^23, and the record is sounding at once when it is 0 and pending otherwise. -/
def Obligations.AllocationClampsVelocityAndOffset : Prop :=
  ∀ (c : Config Num32) (d : Draw Num32) (dt : DrumType) (vel : Num32) (off : BitVec 24), c.num = F32.format →
    let v := newVoice c d dt vel (offsetOf off)
    (F32.inUnit v.vel = true ∧
      (F32.isNaN vel = true → v.vel = 0) ∧
      (F32.lt vel 0 = true → v.vel = 0) ∧
      (F32.lt 0x3F800000 vel = true → v.vel = 0x3F800000) ∧
      (F32.inUnit vel = true → vel ≠ 0x80000000 → v.vel = vel)) ∧
    (v.sus.toNat : Int) = max 0 off.toInt ∧ v.sus.toNat < 2 ^ 23 ∧
    lifeState v = if off.toInt ≤ 0 then .sounding else .pending

/-! ### The voice half of a tick (40_voice_pool.md section 3, 41_voice_synthesis.md) -/

/-- R31: the transitions of a record in a tick are those of the table; a free record is left alone, and the age of a record
changes only when it is sounding (R30). For every number format. -/
def Obligations.LifeCycleOfOneTick : Prop :=
  ∀ (N : Type) (c : Config N) (snap : Bank N) (sr : BitVec 32) (v : Voice N),
    let v' := (voiceStep c snap sr v).voice
    (lifeState v = .free → v' = v ∧ (voiceStep c snap sr v).out = none) ∧
    (lifeState v = .pending → v' = { v with sus := v.sus - 1 } ∧ (voiceStep c snap sr v).out = none ∧
      lifeState v' = if v.sus = 1 then .sounding else .pending) ∧
    (lifeState v = .sounding → (voiceStep c snap sr v).out.isSome = true ∧ lifeState v' ≠ .pending ∧
      v'.sidx.toNat = min (v.sidx.toNat + 1) (2 ^ 32 - 1))

/-- R122, R123, R144: a sounding record past its lifetime contributes 0, advances no phase, noise or filter state, counts
its age and becomes free; one within its lifetime stays active, counts its age and keeps type, velocity and countdown. That it
steps its noise state exactly once is R179, which holds of the reference datapaths (log 27). For every number format. -/
def Obligations.SoundingVoiceRetiresOrAdvances : Prop :=
  ∀ (N : Type) (c : Config N) (snap : Bank N) (sr : BitVec 32) (v : Voice N) (k : DrumType),
    lifeState v = .sounding → v.dtype = some k →
    let r := voiceStep c snap sr v
    (c.num.lt (voiceLife c snap k) (elapsed c sr v) = true →
      r.out = some c.zero ∧ r.voice = { v with active := false, sidx := agePlus v.sidx }) ∧
    (c.num.lt (voiceLife c snap k) (elapsed c sr v) = false →
      r.voice = { v with
        sidx := agePlus v.sidx
        ph := r.voice.ph
        ns := xorshift32 v.ns
        tlp := r.voice.tlp })

/-- R121, R125: a pending record is only counted down, for as many ticks as its countdown, whatever the other records do. -/
def Obligations.CountdownDelaysVoice : Prop :=
  ∀ (c : Config Num32) (sr : BitVec 32) (n : Nat) (s : State) (i : Fin 32),
    (voiceAt s.voices i).active = true → n ≤ (voiceAt s.voices i).sus.toNat →
    voiceAt (ticks c sr n s).voices i =
      { voiceAt s.voices i with sus := (voiceAt s.voices i).sus - BitVec.ofNat 32 n }

/-- R143: a voice that has ended at some age has ended at every greater age: it never ends earlier than its threshold. -/
def Obligations.ExpiryIsMonotoneInAge : Prop :=
  ∀ (c : Config Num32) (snap : Bank Num32) (sr : BitVec 32) (k : DrumType) (v w : Voice Num32), c.num = F32.format →
    v.sidx ≤ w.sidx → expired c snap sr k v = true → expired c snap sr k w = true

/-- 95_test_vectors.md V30: with the default parameters the last sounding age is `life × SR`, for every type and four
rates. The defaults are the spec's default instance (log 1, 5, 8). -/
def Obligations.DefaultLifetimes : Prop :=
  ∀ row ∈ [(DrumType.kick, [4160, 22932, 24960, 49920]), (.snare, [2720, 14994, 16320, 32640]),
      (.closedHat, [800, 4410, 4800, 9600]), (.openHat, [1920, 10584, 11520, 23040]),
      (.crash, [2400, 13230, 14400, 28800]), (.ride, [2720, 14994, 16320, 32640]),
      (.clap, [2720, 14994, 16320, 32640]), (.rim, [1440, 7938, 8640, 17280])],
    ∀ pair ∈ [8000, 44100, 48000, 96000].zip row.2,
      expired cfg (defaultBank cfg) (BitVec.ofNat 32 pair.1) row.1
          { clearedVoice cfg with sidx := BitVec.ofNat 32 pair.2 } = false ∧
      expired cfg (defaultBank cfg) (BitVec.ofNat 32 pair.1) row.1
          { clearedVoice cfg with sidx := BitVec.ofNat 32 (pair.2 + 1) } = true

/-- R148: the noise generator maps non-zero states to non-zero states and zero to zero. R147: a noise sample has magnitude
at most 1, for every state and either setting of `FTZ`. -/
def Obligations.NoiseStaysNonZeroAndBounded : Prop :=
  (∀ x : BitVec 32, xorshift32 x = 0 ↔ x = 0) ∧
    ∀ (c : Config Num32) (n : BitVec 32), c.num = F32.format → UnitMagnitude (noiseSample c n)

/-- R171 to R178, as R179 derives it under the reference datapaths (log 27): a generator advances the noise state once,
each phase accumulator that its rule names once, by the frequency that the rule gives over the rate, and nothing else of its
record. For every number format. -/
def Obligations.GeneratorsAdvanceNamedOscillators : Prop :=
  ∀ (N : Type) (c : Config N) (sr : BitVec 32) (t tuneMul decay hl : N) (v : Voice N),
    let r := c.rom
    let kick := c.mul (c.add r.kFLo (c.mul (c.sub r.kFHi r.kFLo) (dec c t r.kSweepTau))) tuneMul
    let snare := c.mul (c.add r.sFLo (c.mul (c.sub r.sFHi r.sFLo) (dec c t r.sSweepTau))) tuneMul
    ∀ row ∈ [(DrumType.kick, #v[some kick, some (c.mul (c.lit 1 2) kick), none]),
        (.snare, #v[some snare, none, none]),
        (.closedHat, #v[some (c.mul r.chF0 tuneMul), some (c.mul r.chRatio (c.mul r.chF0 tuneMul)), none]),
        (.openHat, #v[some (c.mul r.ohF0 tuneMul), some (c.mul r.ohR1 (c.mul r.ohF0 tuneMul)),
          some (c.mul r.ohR2 (c.mul r.ohF0 tuneMul))]),
        (.crash, #v[some (c.mul r.crF0 tuneMul), some (c.mul r.crF1 tuneMul), some (c.mul r.crF2 tuneMul)]),
        (.ride, #v[some (c.mul r.rdPingF tuneMul), some (c.mul r.rdTailF tuneMul), none]),
        (.clap, #v[none, none, none]),
        (.rim, #v[some (c.mul r.rmF0 tuneMul), some (c.mul r.rmRatio (c.mul r.rmF0 tuneMul)), none])],
      let v' := (gen c sr row.1 t tuneMul decay hl v).2
      v' = { v with ph := v'.ph, ns := xorshift32 v.ns } ∧
      ∀ j : Fin 3, v'.ph[j] =
        match row.2[j] with
        | some f => c.frac (c.add v.ph[j] (c.div f (c.ofNat sr.toNat)))
        | none => v.ph[j]

/-- R146, R27: an oscillator of a frequency that is not negative keeps a phase in [0, 1) there when the quotient of frequency
and rate is finite, and makes it a NaN when that overflows or is a NaN; a phase that is a NaN stays one (log 29). -/
def Obligations.OscillatorKeepsPhaseInCycle : Prop :=
  ∀ (c : Config Num32) (sr : BitVec 32) (j : Fin 3) (f : Num32) (v : Voice Num32), c.num = F32.format →
    F32.le 0 f = true →
    let after := (osc c sr j f v).2.ph[j]
    (F32.isPhase v.ph[j] = true → F32.isFinite (c.div f (c.ofNat sr.toNat)) = true → F32.isPhase after = true) ∧
    (F32.isPhase v.ph[j] = true → F32.isFinite (c.div f (c.ofNat sr.toNat)) = false → F32.isNaN after = true) ∧
    (F32.isNaN v.ph[j] = true → F32.isNaN after = true)

/-- R149, R12: under every configuration the spec allows the exponential envelope lies in [0, 1]. Where `NUM.exp` is 1 at 0
and does not rise below it, which R12 does not give (log 3), the envelope is 1 at time 0 and never rises. -/
def Obligations.ExponentialEnvelopeFalls : Prop :=
  ∀ (c : Config Num32) (t t' tau : Num32), ConfigWf c → F32.isNaN tau = false → F32.le 0 t = true → F32.le t t' = true →
    F32.isFinite (c.div t' (F32.max c.epsTau tau)) = true →
    F32.inUnit (dec c t tau) = true ∧ F32.inUnit (dec c t' tau) = true ∧
      (ExpFalls c → F32.le (dec c t' tau) (dec c t tau) = true ∧
        (F32.isZero t = true → dec c t tau = 0x3F800000))

/-- R150: the attack ramp is 0 at time 0, is `t / T` below `T` and 1 from `T` on, lies in [0, 1], and never falls. -/
def Obligations.AttackRampRises : Prop :=
  ∀ (c : Config Num32) (t t' ramp : Num32), c.num = F32.format → IsPositive ramp → F32.isFinite t' = true →
    F32.le 0 t = true → F32.le t t' = true →
    F32.inUnit (att c t ramp) = true ∧ F32.le (att c t ramp) (att c t' ramp) = true ∧
      (F32.isZero t = true → F32.isZero (att c t ramp) = true) ∧
      (F32.lt t ramp = true → att c t ramp = c.div t ramp) ∧
      (F32.le ramp t = true → att c t ramp = 0x3F800000)

/-- R141: the tune multiplier is positive for every finite sum of the two tune registers; at the sums 0, ±12 and ±24 it is
`exp2` of exactly 0, ±1 and ±2, hence 1, 2, 1/2, 4 and 1/4 where `NUM.exp2` has these values, which R12 does not give
(log 3). -/
def Obligations.TuneMultiplierAtWholeOctaves : Prop :=
  ∀ (c : Config Num32) (snap : Bank Num32) (k : DrumType), ConfigWf c →
    let sum := c.add (regRead snap gTune) (regRead snap (dTune k))
    (F32.isFinite sum = true → F32.lt 0 (tuneMulOf c snap k) = true) ∧
    (F32.isZero sum = true → tuneMulOf c snap k = c.exp2 sum) ∧
    (Exp2Exact c → F32.isZero sum = true → tuneMulOf c snap k = 0x3F800000) ∧
    ∀ row ∈ [(F32.lit 12 1, F32.lit 1 1, F32.lit 2 1), (F32.litNeg 12 1, F32.litNeg 1 1, F32.lit 1 2),
        (F32.lit 24 1, F32.lit 2 1, F32.lit 4 1), (F32.litNeg 24 1, F32.litNeg 2 1, F32.lit 1 4)],
      sum = row.1 →
        tuneMulOf c snap k = c.exp2 row.2.1 ∧ (Exp2Exact c → tuneMulOf c snap k = row.2.2)

/-- R177: the clap envelope is the sum of the bursts whose onsets have come, limited to 1, and lies in [0, 1] (reference
datapath, log 27). -/
def Obligations.ClapEnvelopeLimited : Prop :=
  ∀ (c : Config Num32) (t decay : Num32), ConfigWf c → F32.le 0 t = true → F32.isFinite (c.div t c.epsTau) = true →
    IsPositive decay →
    let burst := fun onset => dec c (c.sub t (c.mul onset decay)) c.rom.clBurstTau
    let first := c.add 0 (burst 0)
    let on1 := c.mul (F32.lit 12 1000) decay
    let on2 := c.mul (F32.lit 22 1000) decay
    F32.inUnit (clapEnvelope c t decay) = true ∧
    (F32.lt t on1 = true → clapEnvelope c t decay = F32.min 0x3F800000 first) ∧
    (F32.le on1 t = true → F32.lt t on2 = true →
      clapEnvelope c t decay = F32.min 0x3F800000 (c.add first (burst (F32.lit 12 1000)))) ∧
    (F32.le on2 t = true →
      clapEnvelope c t decay =
        F32.min 0x3F800000 (c.add (c.add first (burst (F32.lit 12 1000))) (burst (F32.lit 22 1000))))

/-- R157 (d), R180: the raw sample of a generator is a number no larger in magnitude than the sum of its gains, where that
sum is finite (an infinite decay included); at time 0 the crash and the ride are silent (R175, R176). In the reference
datapaths (log 27). -/
def Obligations.GeneratorSamplesBounded : Prop :=
  ∀ (c : Config Num32) (sr : BitVec 32) (k : DrumType) (t tuneMul decay hl : Num32) (v : Voice Num32), ConfigWf c →
    F32.isFinite (rawMax c k) = true → F32.le 0 t = true → F32.isFinite (c.div t c.epsTau) = true →
    F32.lt 0 decay = true → IsPositive hl → (∀ j : Fin 3, F32.isPhase v.ph[j] = true) →
    let raw := (gen c sr k t tuneMul decay hl v).1
    F32.le (F32.abs raw) (rawMax c k) = true ∧
    (k = .crash ∨ k = .ride → F32.isZero t = true → F32.isZero raw = true)

/-- R156: under every configuration the spec allows, what a voice returns has magnitude at most 1, or is a NaN; it is a
number when its raw sample and its filter state are of moderate size, and then the filter state stays so; a NaN raw sample
gives a NaN. -/
def Obligations.VoiceSampleBounded : Prop :=
  ∀ (c : Config Num32) (snap : Bank Num32) (sr : BitVec 32) (k : DrumType) (v : Voice Num32), ConfigWf c →
    let raw := (gen c sr k (elapsed c sr v) (tuneMulOf c snap k) (decayOf c snap k) (hatLenOf c snap) v).1
    let r := drumAlg c snap sr k v
    SampleOk r.sample ∧
    (BankOk c snap → F32.inUnit v.vel = true → Moderate raw → Moderate v.tlp →
      UnitMagnitude r.sample ∧ Moderate r.voice.tlp) ∧
    (expired c snap sr k v = false → F32.isNaN raw = true → F32.isNaN r.sample = true)

/-! ### Rendering and the master bus (43_master_bus.md) -/

/-- R190, R202: `RENDER n` with a written rate runs `n` ticks: it appends `n` frames of `NCH` samples (two in this machine,
the default instance: log 9) and changes the voice file, the master bus and the output stream only. -/
def Obligations.RenderAppendsFrames : Prop :=
  ∀ (s : State) (n : BitVec 16) (sr : BitVec 32), s.port = .aud → s.sr = some sr →
    ∃ vs mb fs, exec (.render n) s = .next { s with voices := vs, mb := mb, frames := s.frames ++ fs } ∧
      exec (.render n) s = .next (ticks cfg sr n.toNat s) ∧
      fs.length = n.toNat ∧ ∀ f ∈ fs, f.length = cfg.nch

/-- R262: `RENDER` on AUD while `SR` is unwritten is refused, `RENDER 0` too. -/
def Obligations.RenderBeforePrepareRefused : Prop :=
  ∀ (s : State) (n : BitVec 16), s.port = .aud → s.sr = none → exec (.render n) s = .refused .renderBeforePrepare

/-- R94, R190: `RENDER a` then `RENDER b` is a render of `a + b` ticks. -/
def Obligations.RenderSplits : Prop :=
  ∀ (s t : State) (a b : BitVec 16), s.port = .aud → a.toNat + b.toNat < 2 ^ 16 →
    exec (.render a) s = .next t → exec (.render b) t = exec (.render (a + b)) s

/-- R212: after `PREPARE` and before any trigger every `RENDER` appends frames of `NCH` exact zeros (two in this machine, the
default instance: log 9) and changes nothing else, whatever the parameters (in their ranges). -/
def Obligations.RenderAfterPrepareIsSilent : Prop :=
  ∀ (s : State) (n : BitVec 16) (sr : BitVec 32), s.port = .aud → s.sr = some sr → BankOk cfg s.snap →
    (∀ i : Fin 32, (voiceAt s.voices i).active = false) → s.mb = ⟨0, 0, 0⟩ →
    exec (.render n) s = .next { s with frames := s.frames ++ List.replicate n.toNat (List.replicate cfg.nch 0) }

/-- R72: what a render does to the voices, the bus and the output depends on these and the snapshot alone, not on anything
CTL can write. -/
def Obligations.RenderDoesNotSeeControl : Prop :=
  ∀ (c : Config Num32) (sr : BitVec 32) (n : Nat) (s t : State),
    s.voices = t.voices → s.snap = t.snap → s.mb = t.mb → s.frames = t.frames →
    (ticks c sr n s).voices = (ticks c sr n t).voices ∧ (ticks c sr n s).mb = (ticks c sr n t).mb ∧
      (ticks c sr n s).frames = (ticks c sr n t).frames

/-- R72: a CTL command and the ticks of a render commute, which is why the model may run a render as one action (log 15). -/
def Obligations.CtlCommutesWithTicks : Prop :=
  ∀ (c : Config Num32) (sr : BitVec 32) (n : Nat) (d : Decoded) (s : State),
    ticks c sr n (ctlEffect c d s) = ctlEffect c d (ticks c sr n s)

/-- R154, R195: a drive stage of gain at least 1 gives a number of magnitude at most 1 for every operand that is a number,
the infinities included, and a NaN for a NaN. -/
def Obligations.DriveStageBounded : Prop :=
  ∀ (c : Config Num32) (dg x : Num32), ConfigWf c → F32.le 0x3F800000 dg = true →
    (F32.isNaN x = false → UnitMagnitude (driveStage c dg x)) ∧
    (F32.isNaN x = true → F32.isNaN (driveStage c dg x) = true)

/-- R203: every tick keeps the filter states and every emitted sample within magnitude 1 (or a NaN, where one enters), for
every configuration the spec allows, every parameter setting in range and every pool. Where the bus is clean and every
sounding voice gives a number of magnitude at most 1, no NaN leaves: the tick keeps the bus and the output clean. -/
def Obligations.OutputStaysBounded : Prop :=
  ∀ (c : Config Num32) (sr : BitVec 32) (s : State), ConfigWf c → BankOk c s.snap →
    (OutputBounded s → OutputBounded (tick c sr s)) ∧
    (OutputClean s →
      (∀ (i : Fin 32) (y : Num32), (voiceStep c s.snap sr (voiceAt s.voices i)).out = some y → UnitMagnitude y) →
      OutputClean (tick c sr s))

/-- R199, R202: with no voice invoked and `abs(m2) < 1e-7` the tick zeroes the three bus registers and emits zeros; with a
voice invoked, or a larger `m2`, the registers are the filtered ones. -/
def Obligations.SilenceResetFiresExactly : Prop :=
  ∀ (c : Config Num32) (sr : BitVec 32) (s : State),
    let mono := monoSum c (poolOuts c s.snap sr s.voices)
    let quiet := c.num.lt (c.num.abs (mixedSample c s.snap s.mb mono)) (c.lit 1 10000000)
    ((∀ i : Fin 32, lifeState (voiceAt s.voices i) ≠ .sounding) → quiet = true →
      (tick c sr s).mb = ⟨c.zero, c.zero, c.zero⟩ ∧
        (tick c sr s).frames = s.frames ++ [List.replicate c.nch c.zero]) ∧
    ((∃ i : Fin 32, lifeState (voiceAt s.voices i) = .sounding) ∨ quiet = false →
      (tick c sr s).mb = busFiltered c s.snap mono s.mb)

/-- R202: a tick appends one frame, of one sample per channel: left, right, then silence, from the registers after the tick,
for every number of channels. -/
def Obligations.TickAppendsFrameOfBus : Prop :=
  ∀ (c : Config Num32) (sr : BitVec 32) (s : State),
    ∃ f, (tick c sr s).frames = s.frames ++ [f] ∧ f.length = c.nch ∧
      ∀ ch : Nat, ch < c.nch →
        f[ch]? = some (if ch = 0 then (tick c sr s).mb.lpL else if ch = 1 then (tick c sr s).mb.lpR else c.zero)

/-! ### The whole machine -/

/-- R51: the state after power-on reset. The values of the held words, the inbox, the port and the two counters are the
model's choice (log 10, 12, 14, 16, 17). -/
def Obligations.ResetState : Prop :=
  (∀ i : Fin 32, voiceAt State.reset.voices i = ⟨false, none, 0, 0, 0, #v[0, 0, 0], 1, 0⟩) ∧
  (∀ id : Fin 46, regRead State.reset.psh id = (cfg.pspec id).dflt ∧ regRead State.reset.snap id = (cfg.pspec id).dflt) ∧
  State.reset.sr = none ∧ State.reset.maxblk = 0 ∧ State.reset.dbgmask = 0 ∧ State.reset.mb = ⟨0, 0, 0⟩ ∧
  State.reset.frames = [] ∧ State.reset.audResp = [] ∧ State.reset.ctlResp = []

/-- The invariant holds after reset. -/
def Obligations.ResetHasInvariant : Prop := Inv State.reset

/-- R30, R36, R40: every step keeps the invariant: every active record has a type, a velocity in [0, 1] and a non-zero noise
state, and a pending one has age and filter state 0; no parameter register leaves its range or becomes a NaN; a written
rate is at least 8000; a port holds only first words of two-word commands. -/
def Obligations.StepKeepsInvariant : Prop :=
  ∀ s t : State, Inv s → step s = .next t → Inv t

/-- R30 (c), R27: every step keeps each phase of every active record in [0, 1) or a NaN; any of them may become a NaN, since
the constraints on the ROM let a frequency overflow (log 29). EveryCommandKeepsSoundClean excludes it where none does. -/
def Obligations.StepKeepsPhasesInCycle : Prop :=
  ∀ s t : State, Inv s → PhasesOk s.voices → step s = .next t → PhasesOk t.voices

/-- R203 for the machine: every step keeps the output bounded, a NaN allowed; with no active record it keeps it clean of NaNs. -/
def Obligations.StepKeepsOutputBounded : Prop :=
  ∀ s t : State, Inv s → step s = .next t →
    (OutputBounded s → OutputBounded t) ∧
    (OutputClean s → (∀ i : Fin 32, (voiceAt s.voices i).active = false) → OutputClean t)

/-- R27, R30, R156, R157 (d), R192, R203: no NaN and no infinity ever arises in the sound. For every configuration that the
spec allows and in which nothing overflows, and in every state whose sound is clean, the operations of which the commands
are made (`exec` is each of them under `cfg`) keep it clean: `PREPARE`, an allocation, `SNAP` with whatever falls inside it,
every command of CTL, and every number of ticks. The state after power-on is clean. (The bounds of `Tame` are the model's:
log 29; the reference datapaths: log 27.) -/
def Obligations.EveryCommandKeepsSoundClean : Prop :=
  ∀ c : Config Num32, ConfigWf c → Tame c →
    SoundClean c (State.powerOn c) ∧
    ∀ s : State, SoundClean c s →
      (∀ (mb : BitVec 16) (sr : BitVec 32), SoundClean c (prepareState c mb sr s)) ∧
      (∀ (dt : DrumType) (vel : Num32) (off : Int), SoundClean c (allocate c dt vel off s)) ∧
      SoundClean c (snapState c s) ∧
      (∀ d : Decoded, SoundClean c (ctlEffect c d s)) ∧
      ∀ (n : Nat) (t : State), renderState c n s = .next t → SoundClean c t

/-- R218, R36: only a `SNAP` of AUD writes the snapshot bank. -/
def Obligations.OnlySnapWritesSnapshot : Prop :=
  ∀ s t : State, step s = .next t →
    t.snap = s.snap ∨
      ∃ w0 w1 aud ctl rest, fetch s = .command .aud w0 w1 aud ctl rest ∧ decode w0 w1 = .instr .snap

/-- R245: a command of CTL touches the shadow bank, the debug mask and CTL's responses at most, and it always completes. It
is the effect that a CTL command has which falls inside a SNAP (R68, R70; log 14). -/
def Obligations.CtlTouchesOnlyItsState : Prop :=
  ∀ (s : State) (i : Instr), s.port = .ctl →
    exec i s = .next (ctlEffect cfg (.instr i) s) ∧
    ∃ psh mask resp, exec i s = .next { s with psh := psh, dbgmask := mask, ctlResp := resp }

/-- R48: a step never takes back what was emitted: frames and responses only grow at their ends. -/
def Obligations.StreamsOnlyGrow : Prop :=
  ∀ s t : State, step s = .next t →
    s.frames <+: t.frames ∧ s.audResp <+: t.audResp ∧ s.ctlResp <+: t.ctlResp
end

