-- ==== Sys2Proof/Laws/Num.lean ====
section
/-! SUPPORT. Laws of the number format: rounding is monotone, and how order, sign and magnitude of a packed value read. -/

namespace Sys2Proof

/-! ### Rounding is monotone -/

theorem F32.rne_le_succ_div (n m : Nat) : F32.rne n m ≤ n / m + 1 := by
  unfold F32.rne
  split
  · omega
  · split
    · omega
    · have := Nat.mod_lt (n / m) (by decide : 0 < 2)
      omega

theorem F32.div_le_rne (n m : Nat) : n / m ≤ F32.rne n m := by
  unfold F32.rne
  split
  · omega
  · split <;> omega

theorem F32.rne_mono {m n n' : Nat} (h : n ≤ n') : F32.rne n m ≤ F32.rne n' m := by
  have hq : n / m ≤ n' / m := Nat.div_le_div_right h
  rcases Nat.lt_or_ge (n / m) (n' / m) with hlt | hge
  · exact (F32.rne_le_succ_div n m).trans (le_trans hlt (F32.div_le_rne n' m))
  · have he : n / m = n' / m := le_antisymm hq hge
    have h1 := Nat.div_add_mod n m
    have h2 := Nat.div_add_mod n' m
    have hr : n % m ≤ n' % m := by rw [he] at h1; omega
    have hpar := Nat.mod_lt (n' / m) (by decide : 0 < 2)
    unfold F32.rne
    rw [he]
    split_ifs <;> omega

/-- Halving the spacing: rounding at a multiple of the unit stays below a power of two bound. -/
theorem F32.rne_le_of_le {n m b : Nat} (hm : 0 < m) (h : n ≤ b * m) : F32.rne n m ≤ b := by
  have : F32.rne (b * m) m = b := by
    unfold F32.rne
    rw [Nat.mul_mod_left, Nat.mul_div_cancel b hm]
    simp [hm]
  calc F32.rne n m ≤ F32.rne (b * m) m := F32.rne_mono h
    _ = b := this

theorem F32.le_rne_of_le {n m b : Nat} (hm : 0 < m) (h : b * m ≤ n) : b ≤ F32.rne n m :=
  le_trans ((Nat.le_div_iff_mul_le hm).2 h) (F32.div_le_rne n m)

theorem F32.roundMag_mono {d n n' : Nat} (hd : 0 < d) (h : n ≤ n') : F32.roundMag n d ≤ F32.roundMag n' d := by
  have hq : n / d ≤ n' / d := Nat.div_le_div_right h
  have hl : (n / d).log2 ≤ (n' / d).log2 := by
    rw [Nat.log2_eq_log_two, Nat.log2_eq_log_two]; exact Nat.log_mono_right hq
  unfold F32.roundMag
  simp only
  rcases Nat.lt_or_ge ((n / d).log2 - 23) ((n' / d).log2 - 23) with hlt | hge
  · generalize he : (n / d).log2 - 23 = e at *
    generalize he' : (n' / d).log2 - 23 = e' at *
    have hup : F32.rne n (d * 2 ^ e) ≤ 2 ^ 24 := by
      apply F32.rne_le_of_le (by positivity)
      have h1 : n / d < 2 ^ ((n / d).log2 + 1) := Nat.lt_log2_self
      have h2 : n / d < 2 ^ (e + 24) :=
        lt_of_lt_of_le h1 (Nat.pow_le_pow_right (by decide) (by omega))
      have h3 : n < 2 ^ (e + 24) * d := (Nat.div_lt_iff_lt_mul hd).1 h2
      calc n ≤ 2 ^ (e + 24) * d := h3.le
        _ = 2 ^ 24 * (d * 2 ^ e) := by rw [pow_add]; ring
    have hlo : 2 ^ 23 ≤ F32.rne n' (d * 2 ^ e') := by
      apply F32.le_rne_of_le (by positivity)
      have hne : n' / d ≠ 0 := by
        intro h0; rw [h0] at he'; simp at he'; omega
      have h1 : 2 ^ (n' / d).log2 ≤ n' / d := Nat.log2_self_le hne
      have h2 : 2 ^ (e' + 23) ≤ n' / d := by
        have : (n' / d).log2 = e' + 23 := by omega
        rwa [this] at h1
      have h3 := (Nat.le_div_iff_mul_le hd).1 h2
      calc 2 ^ 23 * (d * 2 ^ e') = 2 ^ (e' + 23) * d := by rw [pow_add]; ring
        _ ≤ n' := h3
    have : (e + 1) * 2 ^ 23 ≤ e' * 2 ^ 23 := Nat.mul_le_mul_right _ (by omega)
    omega
  · have he : (n / d).log2 - 23 = (n' / d).log2 - 23 := by omega
    rw [he]
    have := F32.rne_mono (m := d * 2 ^ ((n' / d).log2 - 23)) h
    omega

theorem F32.magUnits_mono {m m' : Nat} (h : m ≤ m') : F32.magUnits m ≤ F32.magUnits m' := by
  unfold F32.magUnits
  have hE : m / 2 ^ 23 ≤ m' / 2 ^ 23 := Nat.div_le_div_right h
  have hf := Nat.mod_lt m (by positivity : 0 < 2 ^ 23)
  have d1 := Nat.div_add_mod m (2 ^ 23)
  have d2 := Nat.div_add_mod m' (2 ^ 23)
  split_ifs with h0 h1 h1
  · omega
  · have : 1 ≤ 2 ^ (m' / 2 ^ 23 - 1) := Nat.one_le_two_pow
    calc m % 2 ^ 23 ≤ (2 ^ 23 + m' % 2 ^ 23) * 1 := by omega
      _ ≤ _ := Nat.mul_le_mul_left _ this
  · omega
  · rcases Nat.lt_or_ge (m / 2 ^ 23) (m' / 2 ^ 23) with hlt | hge
    · have hp : 2 ^ (m / 2 ^ 23 - 1) * 2 ≤ 2 ^ (m' / 2 ^ 23 - 1) := by
        rw [← pow_succ]; exact Nat.pow_le_pow_right (by decide) (by omega)
      calc (2 ^ 23 + m % 2 ^ 23) * 2 ^ (m / 2 ^ 23 - 1)
          ≤ (2 ^ 23 * 2) * 2 ^ (m / 2 ^ 23 - 1) := Nat.mul_le_mul_right _ (by omega)
        _ = 2 ^ 23 * (2 ^ (m / 2 ^ 23 - 1) * 2) := by ring
        _ ≤ 2 ^ 23 * 2 ^ (m' / 2 ^ 23 - 1) := Nat.mul_le_mul_left _ hp
        _ ≤ _ := Nat.mul_le_mul_right _ (by omega)
    · have he : m / 2 ^ 23 = m' / 2 ^ 23 := by omega
      rw [he]
      exact Nat.mul_le_mul_right _ (by rw [he] at d1; omega)

/-! ### Packed values -/

theorem F32.mag_lt (x : Num32) : F32.mag x < 2 ^ 31 := Nat.mod_lt _ (by positivity)

@[simp] theorem F32.mag_pack {neg : Bool} {m : Nat} (h : m < 2 ^ 31) : F32.mag (F32.pack neg m) = m := by
  unfold F32.mag F32.pack
  rw [BitVec.toNat_ofNat]
  cases neg <;> simp <;> omega

@[simp] theorem F32.msb_pack {neg : Bool} {m : Nat} (h : m < 2 ^ 31) : (F32.pack neg m).msb = neg := by
  unfold F32.pack
  rw [BitVec.msb_eq_decide, BitVec.toNat_ofNat]
  cases neg <;> simp <;> omega

/-- A value is its sign and its magnitude. -/
theorem F32.pack_mag (x : Num32) : F32.pack x.msb (F32.mag x) = x := by
  apply BitVec.eq_of_toNat_eq
  unfold F32.pack F32.mag
  rw [BitVec.toNat_ofNat, BitVec.msb_eq_decide]
  have := x.isLt
  simp only [decide_eq_true_eq]
  split_ifs <;> omega

theorem F32.ext {x y : Num32} (hs : x.msb = y.msb) (hm : F32.mag x = F32.mag y) : x = y := by
  rw [← F32.pack_mag x, ← F32.pack_mag y, hs, hm]

theorem F32.mag_round (neg : Bool) (n d : Nat) :
    F32.mag (F32.round neg n d) = F32.roundMag n d ⊓ F32.infMag := by
  have hi : F32.infMag < 2 ^ 31 := by decide
  exact F32.mag_pack (by omega)

/-- Rounding is never a NaN. -/
@[simp] theorem F32.isNaN_round (neg : Bool) (n d : Nat) : F32.isNaN (F32.round neg n d) = false := by
  simp [F32.isNaN, F32.mag_round]

@[simp] theorem F32.msb_round (neg : Bool) (n d : Nat) : (F32.round neg n d).msb = neg := by
  have hi : F32.infMag < 2 ^ 31 := by decide
  exact F32.msb_pack (by omega)

/-- Rounded magnitudes are ordered as the exact ones. -/
theorem F32.mag_round_mono {neg neg' : Bool} {n n' d : Nat} (hd : 0 < d) (h : n ≤ n') :
    F32.mag (F32.round neg n d) ≤ F32.mag (F32.round neg' n' d) := by
  have hr := F32.roundMag_mono hd h
  rw [F32.mag_round, F32.mag_round]
  omega

/-! ### Flushing -/

theorem F32.mag_flush (x : Num32) : F32.mag (F32.flush x) = if F32.mag x < 2 ^ 23 then 0 else F32.mag x := by
  unfold F32.flush
  split
  · exact F32.mag_pack (by decide)
  · rfl

@[simp] theorem F32.msb_flush (x : Num32) : (F32.flush x).msb = x.msb := by
  unfold F32.flush
  split
  · exact F32.msb_pack (by decide)
  · rfl

/-- Flushing makes no NaN and takes none away. -/
@[simp] theorem F32.isNaN_flush (x : Num32) : F32.isNaN (F32.flush x) = F32.isNaN x := by
  have hi : (2 : Nat) ^ 23 ≤ F32.infMag := by decide
  rw [F32.isNaN, F32.isNaN, F32.mag_flush]
  split
  · rw [decide_eq_decide]; omega
  · rfl

/-- Flushed magnitudes are ordered as the magnitudes. -/
theorem F32.mag_flush_mono {x y : Num32} (h : F32.mag x ≤ F32.mag y) :
    F32.mag (F32.flush x) ≤ F32.mag (F32.flush y) := by
  rw [F32.mag_flush, F32.mag_flush]
  split_ifs <;> omega

theorem F32.mag_flush_le (x : Num32) : F32.mag (F32.flush x) ≤ F32.mag x := by
  rw [F32.mag_flush]
  split_ifs <;> omega

/-! ### Order -/

theorem F32.isNaN_eq (x : Num32) : F32.isNaN x = decide (F32.infMag < F32.mag x) := rfl

theorem F32.isNaN_of_finite {x : Num32} (h : F32.isFinite x = true) : F32.isNaN x = false := by
  simp [F32.isNaN, F32.isFinite] at *; omega

theorem F32.isInf_of_finite {x : Num32} (h : F32.isFinite x = true) : F32.isInf x = false := by
  simp [F32.isInf, F32.isFinite] at *; omega

theorem F32.le_iff {x y : Num32} :
    F32.le x y = true ↔ F32.isNaN x = false ∧ F32.isNaN y = false ∧ F32.key x ≤ F32.key y := by
  simp [F32.le, and_assoc]

theorem F32.lt_iff {x y : Num32} :
    F32.lt x y = true ↔ F32.isNaN x = false ∧ F32.isNaN y = false ∧ F32.key x < F32.key y := by
  simp [F32.lt, and_assoc]

theorem F32.le_trans {x y z : Num32} (h1 : F32.le x y = true) (h2 : F32.le y z = true) : F32.le x z = true := by
  rw [F32.le_iff] at *
  exact ⟨h1.1, h2.2.1, Int.le_trans h1.2.2 h2.2.2⟩

theorem F32.key_nonneg_msb {x : Num32} (h : 0 < F32.key x) : x.msb = false := by
  unfold F32.key at h
  cases hx : x.msb <;> simp [hx] at h ⊢
  omega

theorem F32.key_of_msb_false {x : Num32} (h : x.msb = false) : F32.key x = F32.mag x := by
  simp [F32.key, h]

/-- `0 ≤ x ≤ 1` in terms of sign and magnitude. -/
theorem F32.inUnit_iff {x : Num32} :
    F32.inUnit x = true ↔ (x.msb = false ∧ F32.mag x ≤ 0x3F800000) ∨ F32.mag x = 0 := by
  have h0 : F32.key 0 = 0 := by decide
  have h1 : F32.key 0x3F800000 = 0x3F800000 := by decide
  have hn0 : F32.isNaN (0 : Num32) = false := by decide
  have hn1 : F32.isNaN (0x3F800000 : Num32) = false := by decide
  simp only [F32.inUnit, Bool.and_eq_true, F32.le_iff, h0, h1, hn0, hn1, true_and]
  unfold F32.isNaN F32.key F32.infMag
  cases x.msb <;> simp <;> omega

end Sys2Proof
end

