-- ==== Sys2Proof/Laws/Config.lean ====
section
/-! SUPPORT. The configuration of this machine satisfies what the spec lets a model assume of a configuration, whatever its
free values are; and what the operations of a configuration over binary32 are. -/

namespace Sys2Proof.Machine

/-! ### The operations of a configuration over binary32 -/

section
variable {c : Config Num32} (h : c.num = F32.format)
include h

theorem flush_eq (x : Num32) : c.flush x = if c.ftz then F32.flush x else x := by rw [Config.flush, h]; rfl
theorem add_eq (x y : Num32) : c.add x y = c.flush (F32.add x y) := by rw [Config.add, h]; rfl
theorem sub_eq (x y : Num32) : c.sub x y = c.flush (F32.sub x y) := by rw [Config.sub, h]; rfl
theorem mul_eq (x y : Num32) : c.mul x y = c.flush (F32.mul x y) := by rw [Config.mul, h]; rfl
theorem div_eq (x y : Num32) : c.div x y = c.flush (F32.div x y) := by rw [Config.div, h]; rfl
theorem frac_eq (x : Num32) : c.frac x = c.flush (F32.frac x) := by rw [Config.frac, h]; rfl
theorem ofNat_eq (n : Nat) : c.ofNat n = c.flush (F32.ofNat n) := by rw [Config.ofNat, h]; rfl
theorem lit_eq (n d : Nat) : c.lit n d = F32.lit n d := by rw [Config.lit, h]; rfl
theorem zero_eq : c.zero = 0 := by rw [Config.zero, lit_eq h]; decide +kernel
theorem one_eq : c.one = one := by rw [Config.one, lit_eq h]; decide +kernel
theorem clamp_eq (x lo hi : Num32) :
    c.clamp x lo hi = if F32.isNaN x then lo else F32.max lo (F32.min x hi) := by rw [Config.clamp, h]; rfl

theorem isNaN_flush (x : Num32) : F32.isNaN (c.flush x) = F32.isNaN x := by
  rw [flush_eq h]; split <;> simp

theorem msb_flush (x : Num32) : (c.flush x).msb = x.msb := by
  rw [flush_eq h]; split <;> simp

theorem mag_flush_mono {x y : Num32} (hm : F32.mag x ≤ F32.mag y) : F32.mag (c.flush x) ≤ F32.mag (c.flush y) := by
  rw [flush_eq h, flush_eq h]
  split
  · exact F32.mag_flush_mono hm
  · exact hm

theorem mag_flush_le (x : Num32) : F32.mag (c.flush x) ≤ F32.mag x := by
  rw [flush_eq h]
  split
  · exact F32.mag_flush_le x
  · exact le_rfl

end

/-! ### The rising shape -/

theorem climb_le (cap : Nat) (f : Nat → Option Nat) (n : Nat) : climb cap f n ≤ cap := by
  induction n with
  | zero => exact Nat.zero_le _
  | succ n ih => unfold climb; split <;> omega

theorem climb_mono (cap : Nat) (f : Nat → Option Nat) {n m : Nat} (h : n ≤ m) : climb cap f n ≤ climb cap f m := by
  induction m with
  | zero => rw [Nat.le_zero.1 h]
  | succ m ih =>
    rcases Nat.lt_or_eq_of_le h with hl | rfl
    · have := ih (by omega)
      conv => rhs; unfold climb
      split <;> omega
    · rfl

/-! ### Elementary functions -/

theorem oneMag_lt : oneMag < 2 ^ 31 := by decide

theorem isNaN_pack {neg : Bool} {m : Nat} (h : m ≤ oneMag) : F32.isNaN (F32.pack neg m) = false := by
  have h1 := oneMag_lt
  have h2 : oneMag < F32.infMag := by decide
  simp only [F32.isNaN, F32.mag_pack (show m < 2 ^ 31 by omega), decide_eq_false_iff_not]
  omega

theorem key_pack {neg : Bool} {m : Nat} (h : m < 2 ^ 31) :
    F32.key (F32.pack neg m) = if neg then - (m : Int) else (m : Int) := by
  simp only [F32.key, F32.msb_pack h, F32.mag_pack h]

theorem unitMagnitude_pack {neg : Bool} {m : Nat} (h : m ≤ oneMag) : UnitMagnitude (F32.pack neg m) := by
  have h1 := oneMag_lt
  have hk : F32.key one = oneMag := by decide
  have hn : F32.isNaN one = false := by decide
  unfold UnitMagnitude F32.abs
  rw [F32.mag_pack (show m < 2 ^ 31 by omega), F32.le_iff]
  refine ⟨isNaN_pack h, hn, ?_⟩
  rw [key_pack (by omega), hk]
  simpa using h

theorem tanhOf_of_not_nan (f : Nat → Option Nat) {x : Num32} (h : F32.isNaN x = false) :
    tanhOf f x = F32.pack x.msb (climb oneMag f (F32.mag x)) := by simp [tanhOf, h]

theorem isNaN_neg (x : Num32) : F32.isNaN (F32.neg x) = F32.isNaN x := by
  have : F32.mag (F32.neg x) = F32.mag x := by
    unfold F32.mag F32.neg
    rw [BitVec.toNat_xor, Nat.xor_mod_two_pow]
    simp
  simp [F32.isNaN, this]

theorem mag_neg (x : Num32) : F32.mag (F32.neg x) = F32.mag x := by
  unfold F32.mag F32.neg
  rw [BitVec.toNat_xor, Nat.xor_mod_two_pow]
  simp

theorem msb_neg (x : Num32) : (F32.neg x).msb = !x.msb := by
  have h : (0x80000000 : Num32).msb = true := by decide
  unfold F32.neg
  rw [BitVec.msb_xor, h, Bool.xor_true]

theorem neg_pack {neg : Bool} {m : Nat} (h : m < 2 ^ 31) : F32.neg (F32.pack neg m) = F32.pack (!neg) m := by
  apply F32.ext
  · rw [msb_neg, F32.msb_pack h, F32.msb_pack h]
  · rw [mag_neg, F32.mag_pack h, F32.mag_pack h]

theorem tanhOf_odd (f : Nat → Option Nat) (x : Num32) (h : F32.isNaN x = false) :
    tanhOf f (F32.neg x) = F32.neg (tanhOf f x) := by
  have := climb_le oneMag f (F32.mag x)
  have h1 := oneMag_lt
  rw [tanhOf_of_not_nan f h, tanhOf_of_not_nan f (by rw [isNaN_neg]; exact h), mag_neg, msb_neg,
    neg_pack (by omega)]

theorem tanhOf_mono (f : Nat → Option Nat) (x y : Num32) (h : F32.le x y = true) :
    F32.le (tanhOf f x) (tanhOf f y) = true := by
  obtain ⟨hx, hy, hk⟩ := F32.le_iff.1 h
  have h1 := oneMag_lt
  have bx := climb_le oneMag f (F32.mag x)
  have bz := climb_le oneMag f (F32.mag y)
  rw [tanhOf_of_not_nan f hx, tanhOf_of_not_nan f hy, F32.le_iff]
  refine ⟨isNaN_pack bx, isNaN_pack bz, ?_⟩
  rw [key_pack (by omega), key_pack (by omega)]
  unfold F32.key at hk
  cases hsx : x.msb <;> cases hsy : y.msb <;> simp only [hsx, hsy, if_true, if_false, Bool.false_eq_true] at hk ⊢
  · have := climb_mono oneMag f (show F32.mag x ≤ F32.mag y by omega); omega
  · have h0 : F32.mag x = 0 := by omega
    have h0' : F32.mag y = 0 := by omega
    rw [h0, h0']; simp [climb]
  · omega
  · have := climb_mono oneMag f (show F32.mag y ≤ F32.mag x by omega); omega

theorem tanhOf_zero (f : Nat → Option Nat) : tanhOf f 0 = 0 := by
  have h0 : F32.mag (0 : Num32) = 0 := by decide
  rw [tanhOf_of_not_nan f (by decide), h0]
  change F32.pack false 0 = 0
  decide

theorem tanhOf_bound (f : Nat → Option Nat) (x : Num32) (h : F32.isNaN x = false) : UnitMagnitude (tanhOf f x) := by
  rw [tanhOf_of_not_nan f h]
  exact unitMagnitude_pack (climb_le _ _ _)

theorem expOf_range (f : Num32 → Num32) (x : Num32) (hf : F32.isFinite x = true) (h : F32.le x 0 = true) :
    F32.inUnit (expOf f x) = true := by
  unfold expOf
  split
  · decide
  · simp_all

theorem sinOf_bound (f : Num32 → Num32) (x : Num32) (h : F32.isFinite x = true) : UnitMagnitude (sinOf f x) := by
  unfold sinOf
  split
  · decide
  · simp_all [UnitMagnitude]

theorem exp2Of_pos (f : Num32 → Num32) (x : Num32) (h : F32.isFinite x = true) : F32.lt 0 (exp2Of f x) = true := by
  unfold exp2Of
  split
  · decide
  · simp_all

theorem sqrtOf_ge_one (f : Num32 → Num32) (x : Num32) (h : F32.le one x = true) : F32.le one (sqrtOf f x) = true := by
  unfold sqrtOf
  split
  · decide
  · simp_all

/-! ### PSPEC -/

theorem pspec_order : ∀ id : Fin 46, F32.isFinite (pspecDefault id).lo = true ∧
    F32.isFinite (pspecDefault id).hi = true ∧
    Within (pspecDefault id).lo (pspecDefault id).dflt (pspecDefault id).hi := by decide +kernel

theorem pspec_tone_drive : ∀ id ∈ gTone :: gDrive :: (drumTypes.map dTone ++ drumTypes.map dDrive),
    F32.inUnit (pspecDefault id).lo = true ∧ F32.inUnit (pspecDefault id).hi = true := by decide +kernel

theorem pspec_level : ∀ id ∈ drumTypes.map dLevel, F32.le 0 (pspecDefault id).lo = true := by decide +kernel

/-! ### Linear maps -/

/-- `a + b × x` for finite positive `a`, `b` rises with a positive `x`: its magnitude lies between those at 0 and at 1. -/
theorem affine_between {a b x : Num32} (ha : F32.isFinite a = true) (hb : F32.isFinite b = true)
    (sa : a.msb = false) (sb : b.msb = false) (pa : 0 < F32.magUnits (F32.mag a))
    (p1 : F32.isFinite (F32.mul b one) = true) (hx : x.msb = false) (hm : F32.mag x ≤ oneMag) :
    (F32.add a (F32.mul b x)).msb = false ∧
    F32.mag (F32.add a (F32.mul b 0)) ≤ F32.mag (F32.add a (F32.mul b x)) ∧
    F32.mag (F32.add a (F32.mul b x)) ≤ F32.mag (F32.add a (F32.mul b one)) := by
  have hmul : ∀ y : Num32, y.msb = false → F32.mag y ≤ oneMag → F32.mul b y =
      F32.round false (F32.magUnits (F32.mag b) * F32.magUnits (F32.mag y)) (2 ^ 149) := by
    intro y hy hym
    have hfin : F32.isFinite y = true := by
      have : oneMag < F32.infMag := by decide
      simp only [F32.isFinite, decide_eq_true_eq]; omega
    simp [F32.mul, F32.isNaN_of_finite hb, F32.isNaN_of_finite hfin, F32.isInf_of_finite hb,
      F32.isInf_of_finite hfin, sb, hy]
  have hmono : ∀ y z : Num32, y.msb = false → z.msb = false → F32.mag z ≤ oneMag → F32.mag y ≤ F32.mag z →
      F32.mag (F32.mul b y) ≤ F32.mag (F32.mul b z) := by
    intro y z hy hz hzm hyz
    rw [hmul y hy (hyz.trans hzm), hmul z hz hzm]
    exact F32.mag_round_mono (by positivity) (Nat.mul_le_mul_left _ (F32.magUnits_mono hyz))
  have hone : one.msb = false := by decide
  have hmone : F32.mag one = oneMag := by decide
  have hzero : (0 : Num32).msb = false := by decide
  have hmzero : F32.mag (0 : Num32) = 0 := by decide
  have hadd : ∀ y : Num32, y.msb = false → F32.mag y ≤ oneMag → F32.add a (F32.mul b y) =
      F32.round false (F32.magUnits (F32.mag a) + F32.magUnits (F32.mag (F32.mul b y))) 1 := by
    intro y hy hym
    have hfin : F32.isFinite (F32.mul b y) = true := by
      have h1 := hmono y one hy hone (by rw [hmone]) (by rw [hmone]; exact hym)
      simp only [F32.isFinite, decide_eq_true_eq] at p1 ⊢; omega
    have hs : (F32.mul b y).msb = false := by rw [hmul y hy hym]; simp
    have hu : F32.units a + F32.units (F32.mul b y) =
        ((F32.magUnits (F32.mag a) + F32.magUnits (F32.mag (F32.mul b y)) : Nat) : Int) := by
      simp [F32.units, sa, hs]
    simp only [F32.add, F32.isNaN_of_finite ha, F32.isNaN_of_finite hfin, F32.isInf_of_finite ha,
      F32.isInf_of_finite hfin, hu, Bool.or_self, Bool.false_eq_true, if_false, Int.natAbs_natCast]
    rw [if_neg (by omega)]
    have : decide (((F32.magUnits (F32.mag a) + F32.magUnits (F32.mag (F32.mul b y)) : Nat) : Int) < 0) = false := by
      simp only [decide_eq_false_iff_not]; omega
    rw [this]
  refine ⟨by rw [hadd x hx hm]; simp, ?_, ?_⟩
  · rw [hadd x hx hm, hadd 0 hzero (by rw [hmzero]; exact Nat.zero_le _)]
    exact F32.mag_round_mono (by decide) (Nat.add_le_add_left
      (F32.magUnits_mono (hmono 0 x hzero hx hm (by rw [hmzero]; exact Nat.zero_le _))) _)
  · rw [hadd x hx hm, hadd one hone (by rw [hmone])]
    exact F32.mag_round_mono (by decide) (Nat.add_le_add_left
      (F32.magUnits_mono (hmono x one hx hone (by rw [hmone]) (by rw [hmone]; exact hm))) _)

/-- A non-negative value between two non-negative ones, by magnitude. -/
theorem within_of_mag {lo x hi : Num32} (sl : lo.msb = false) (sx : x.msb = false) (sh : hi.msb = false)
    (h1 : F32.mag lo ≤ F32.mag x) (h2 : F32.mag x ≤ F32.mag hi) (hh : F32.isFinite hi = true) : Within lo x hi := by
  have hn := F32.isNaN_of_finite hh
  simp only [F32.isFinite, decide_eq_true_eq] at hh
  have nx : F32.isNaN x = false := by simp only [F32.isNaN, decide_eq_false_iff_not]; omega
  have nl : F32.isNaN lo = false := by simp only [F32.isNaN, decide_eq_false_iff_not]; omega
  constructor <;> rw [F32.le_iff]
  · exact ⟨nl, nx, by rw [F32.key_of_msb_false sl, F32.key_of_msb_false sx]; omega⟩
  · exact ⟨nx, hn, by rw [F32.key_of_msb_false sx, F32.key_of_msb_false sh]; omega⟩

theorem minusZero_of_mag {x : Num32} (h : F32.mag x = 0) : x = 0 ∨ x = 0x80000000 := by
  cases hs : x.msb
  · left; exact F32.ext (by rw [hs]; decide) (by rw [h]; decide)
  · right; exact F32.ext (by rw [hs]; decide) (by rw [h]; decide)

theorem vtoneCoef_within (x : Num32) (h : F32.inUnit x = true) :
    Within (F32.lit 2 100) (vtoneCoefDefault x) (F32.lit 62 100) := by
  rcases F32.inUnit_iff.1 h with ⟨hs, hm⟩ | h0
  · obtain ⟨h1, h2, h3⟩ := affine_between (a := F32.lit 2 100) (b := F32.lit 60 100) (x := x) (by decide +kernel)
      (by decide +kernel) (by decide +kernel) (by decide +kernel) (by decide +kernel) (by decide +kernel) hs hm
    have e0 : F32.mag (F32.add (F32.lit 2 100) (F32.mul (F32.lit 60 100) 0)) = F32.mag (F32.lit 2 100) := by
      decide +kernel
    have e1 : F32.mag (F32.add (F32.lit 2 100) (F32.mul (F32.lit 60 100) one)) = F32.mag (F32.lit 62 100) := by
      decide +kernel
    rw [e0] at h2; rw [e1] at h3
    exact within_of_mag (by decide +kernel) h1 (by decide +kernel) h2 h3 (by decide +kernel)
  · rcases minusZero_of_mag h0 with rfl | rfl <;> decide +kernel

theorem mtoneCoef_within (x : Num32) (h : F32.inUnit x = true) :
    Within (F32.lit 14 100) (mtoneCoefDefault x) (F32.lit 52 100) := by
  rcases F32.inUnit_iff.1 h with ⟨hs, hm⟩ | h0
  · obtain ⟨h1, h2, h3⟩ := affine_between (a := F32.lit 14 100) (b := F32.lit 38 100) (x := x) (by decide +kernel)
      (by decide +kernel) (by decide +kernel) (by decide +kernel) (by decide +kernel) (by decide +kernel) hs hm
    have e0 : F32.mag (F32.add (F32.lit 14 100) (F32.mul (F32.lit 38 100) 0)) = F32.mag (F32.lit 14 100) := by
      decide +kernel
    have e1 : F32.mag (F32.add (F32.lit 14 100) (F32.mul (F32.lit 38 100) one)) = F32.mag (F32.lit 52 100) := by
      decide +kernel
    rw [e0] at h2; rw [e1] at h3
    exact within_of_mag (by decide +kernel) h1 (by decide +kernel) h2 h3 (by decide +kernel)
  · rcases minusZero_of_mag h0 with rfl | rfl <;> decide +kernel

/-! ### The patch ROM and the draw -/

theorem gainOf_isGain (x : Num32) : IsGain (gainOf x) := by
  unfold gainOf
  split
  · simp_all [IsGain]
  · decide

theorem posOf_isPositive (x : Num32) : IsPositive (posOf x) := by
  unfold posOf
  split
  · simp_all [IsPositive]
  · decide

theorem finite_of_lt_finite {a b : Num32} (h0 : F32.lt 0 a = true) (h : F32.lt a b = true) (hb : F32.isFinite b = true) :
    F32.isFinite a = true := by
  have hk : F32.key 0 = 0 := by decide
  obtain ⟨-, -, k0⟩ := F32.lt_iff.1 h0
  obtain ⟨-, -, k1⟩ := F32.lt_iff.1 h
  rw [hk] at k0
  have ea := F32.key_of_msb_false (F32.key_nonneg_msb k0)
  have eb := F32.key_of_msb_false (F32.key_nonneg_msb (x := b) (by omega))
  simp only [F32.isFinite, decide_eq_true_eq] at hb ⊢
  omega

theorem pairOf_spec (a b : Num32) :
    IsPositive (pairOf a b).1 ∧ IsPositive (pairOf a b).2 ∧ F32.lt (pairOf a b).1 (pairOf a b).2 = true := by
  unfold pairOf
  split
  · rename_i h
    simp only [Bool.and_eq_true] at h
    obtain ⟨⟨h1, h2⟩, h3⟩ := h
    refine ⟨⟨finite_of_lt_finite h1 h2 h3, h1⟩, ⟨h3, ?_⟩, h2⟩
    change F32.lt 0 b = true
    have k1 := F32.lt_iff.1 h1
    have k2 := F32.lt_iff.1 h2
    exact F32.lt_iff.2 ⟨k1.1, k2.2.1, by omega⟩
  · exact ⟨by decide, by decide +kernel, by decide +kernel⟩

theorem romOf_wf (f : Nat → Num32) : RomWf (romOf f) where
  gains := by
    simp only [List.forall_mem_cons]
    exact ⟨gainOf_isGain _, gainOf_isGain _, gainOf_isGain _, gainOf_isGain _, gainOf_isGain _, gainOf_isGain _,
      gainOf_isGain _, gainOf_isGain _, gainOf_isGain _, gainOf_isGain _, gainOf_isGain _, gainOf_isGain _,
      gainOf_isGain _, gainOf_isGain _, gainOf_isGain _, gainOf_isGain _, gainOf_isGain _, gainOf_isGain _,
      gainOf_isGain _, gainOf_isGain _, nofun⟩
  positives := by
    simp only [List.forall_mem_cons]
    exact ⟨(show IsPositive (F32.lit 346 1) by decide +kernel), (show IsPositive (F32.lit 46 1) by decide +kernel),
      posOf_isPositive _, posOf_isPositive _, posOf_isPositive _, (show IsPositive (F32.lit 368 1) by
      decide +kernel), (show IsPositive (F32.lit 238 1) by decide +kernel), posOf_isPositive _, posOf_isPositive _,
      (pairOf_spec _ _).2.1, (pairOf_spec _ _).1, (show IsPositive (F32.lit 1733 1000) by decide +kernel),
      posOf_isPositive _, (pairOf_spec _ _).1, posOf_isPositive _, posOf_isPositive _, posOf_isPositive _,
      (pairOf_spec _ _).2.1, (show IsPositive (F32.lit 2 1000) by decide +kernel), posOf_isPositive _,
      posOf_isPositive _, posOf_isPositive _, posOf_isPositive _, posOf_isPositive _, posOf_isPositive _,
      posOf_isPositive _, (show IsPositive (F32.lit 18 10000) by decide +kernel), posOf_isPositive _,
      posOf_isPositive _, posOf_isPositive _, posOf_isPositive _, posOf_isPositive _, posOf_isPositive _,
      (show IsPositive (F32.lit 1585 1000) by decide +kernel), posOf_isPositive _, posOf_isPositive _,
      posOf_isPositive _, nofun⟩
  crack_shorter := (pairOf_spec _ _).2.2
  open_hat_slower := (pairOf_spec _ _).2.2
  exact_pitches := ⟨rfl, rfl⟩
  exact_bursts := ⟨rfl, rfl, rfl, rfl⟩

theorem phaseOf_isPhase (x : Num32) : F32.isPhase (phaseOf x) = true := by
  unfold phaseOf
  split
  · assumption
  · decide

/-! ### The instance -/

/-- The configuration of this machine is well-formed. -/
theorem cfg_wf : ConfigWf cfg where
  binary32 := rfl
  tanh_odd := tanhOf_odd _
  tanh_mono := tanhOf_mono _
  tanh_zero := tanhOf_zero _
  tanh_bound := tanhOf_bound _
  tanh_nan := by
    intro x h
    have : cfg.tanh x = F32.nan := by simp [cfg, tanhOf, h]
    rw [this]; decide
  sin_bound := sinOf_bound _
  exp_range := expOf_range _
  exp2_pos := exp2Of_pos _
  sqrt_ge_one := sqrtOf_ge_one _
  pspec_order := pspec_order
  tone_drive_unit := pspec_tone_drive
  level_lo := pspec_level
  vtone_coef := vtoneCoef_within
  vtone_mix := fun _ h => h
  mtone_left := mtoneCoef_within
  mtone_right := by
    intro x h
    have hw := mtoneCoef_within x h
    have hlo : F32.lt 0 (F32.lit 14 100) = true := by decide +kernel
    have hhi : F32.lt (F32.lit 52 100) one = true := by decide +kernel
    change F32.lt 0 (mtoneCoefDefault x) = true ∧ F32.lt (mtoneCoefDefault x) one = true
    rw [F32.lt_iff] at *
    have h1 := F32.le_iff.1 hw.1
    have h2 := F32.le_iff.1 hw.2
    rw [F32.lt_iff]
    exact ⟨⟨hlo.1, h1.2.1, by omega⟩, ⟨h1.2.1, hhi.2.1, by omega⟩⟩
  floors := by
    change IsPositive (F32.lit 1 10000) ∧ IsPositive (F32.lit 1 10000) ∧ IsPositive (F32.lit 1 10000)
    decide +kernel
  rom := romOf_wf _
  draws := fun _ => ⟨phaseOf_isPhase _, phaseOf_isPhase _, phaseOf_isPhase _⟩

end Sys2Proof.Machine
end

