-- ==== Sys2Proof/Laws/State.lean ====
section
/-! SUPPORT. One lemma per field per update of the state, so that no later proof unfolds a record update. -/

namespace Sys2Proof.Machine

/-! ### setVoice -/

@[simp] theorem setVoice_voices (i : Fin 32) (v : Voice Num32) (s : State) : (setVoice i v s).voices = s.voices.set i v := rfl
@[simp] theorem setVoice_psh (i : Fin 32) (v : Voice Num32) (s : State) : (setVoice i v s).psh = s.psh := rfl
@[simp] theorem setVoice_snap (i : Fin 32) (v : Voice Num32) (s : State) : (setVoice i v s).snap = s.snap := rfl
@[simp] theorem setVoice_sr (i : Fin 32) (v : Voice Num32) (s : State) : (setVoice i v s).sr = s.sr := rfl
@[simp] theorem setVoice_maxblk (i : Fin 32) (v : Voice Num32) (s : State) : (setVoice i v s).maxblk = s.maxblk := rfl
@[simp] theorem setVoice_dbgmask (i : Fin 32) (v : Voice Num32) (s : State) : (setVoice i v s).dbgmask = s.dbgmask := rfl
@[simp] theorem setVoice_mb (i : Fin 32) (v : Voice Num32) (s : State) : (setVoice i v s).mb = s.mb := rfl
@[simp] theorem setVoice_frames (i : Fin 32) (v : Voice Num32) (s : State) : (setVoice i v s).frames = s.frames := rfl
@[simp] theorem setVoice_audResp (i : Fin 32) (v : Voice Num32) (s : State) : (setVoice i v s).audResp = s.audResp := rfl
@[simp] theorem setVoice_ctlResp (i : Fin 32) (v : Voice Num32) (s : State) : (setVoice i v s).ctlResp = s.ctlResp := rfl
@[simp] theorem setVoice_audHeld (i : Fin 32) (v : Voice Num32) (s : State) : (setVoice i v s).audHeld = s.audHeld := rfl
@[simp] theorem setVoice_ctlHeld (i : Fin 32) (v : Voice Num32) (s : State) : (setVoice i v s).ctlHeld = s.ctlHeld := rfl
@[simp] theorem setVoice_inbox (i : Fin 32) (v : Voice Num32) (s : State) : (setVoice i v s).inbox = s.inbox := rfl
@[simp] theorem setVoice_port (i : Fin 32) (v : Voice Num32) (s : State) : (setVoice i v s).port = s.port := rfl
@[simp] theorem setVoice_draws (i : Fin 32) (v : Voice Num32) (s : State) : (setVoice i v s).draws = s.draws := rfl
@[simp] theorem setVoice_snaps (i : Fin 32) (v : Voice Num32) (s : State) : (setVoice i v s).snaps = s.snaps := rfl

/-! ### countDraw -/

@[simp] theorem countDraw_voices (s : State) : (countDraw s).voices = s.voices := rfl
@[simp] theorem countDraw_psh (s : State) : (countDraw s).psh = s.psh := rfl
@[simp] theorem countDraw_snap (s : State) : (countDraw s).snap = s.snap := rfl
@[simp] theorem countDraw_sr (s : State) : (countDraw s).sr = s.sr := rfl
@[simp] theorem countDraw_maxblk (s : State) : (countDraw s).maxblk = s.maxblk := rfl
@[simp] theorem countDraw_dbgmask (s : State) : (countDraw s).dbgmask = s.dbgmask := rfl
@[simp] theorem countDraw_mb (s : State) : (countDraw s).mb = s.mb := rfl
@[simp] theorem countDraw_frames (s : State) : (countDraw s).frames = s.frames := rfl
@[simp] theorem countDraw_audResp (s : State) : (countDraw s).audResp = s.audResp := rfl
@[simp] theorem countDraw_ctlResp (s : State) : (countDraw s).ctlResp = s.ctlResp := rfl
@[simp] theorem countDraw_audHeld (s : State) : (countDraw s).audHeld = s.audHeld := rfl
@[simp] theorem countDraw_ctlHeld (s : State) : (countDraw s).ctlHeld = s.ctlHeld := rfl
@[simp] theorem countDraw_inbox (s : State) : (countDraw s).inbox = s.inbox := rfl
@[simp] theorem countDraw_port (s : State) : (countDraw s).port = s.port := rfl
@[simp] theorem countDraw_draws (s : State) : (countDraw s).draws = s.draws + 1 := rfl
@[simp] theorem countDraw_snaps (s : State) : (countDraw s).snaps = s.snaps := rfl

/-! ### writePsh -/

@[simp] theorem writePsh_voices (id : Fin 46) (x : Num32) (s : State) : (writePsh id x s).voices = s.voices := rfl
@[simp] theorem writePsh_psh (id : Fin 46) (x : Num32) (s : State) : (writePsh id x s).psh = s.psh.set id x := rfl
@[simp] theorem writePsh_snap (id : Fin 46) (x : Num32) (s : State) : (writePsh id x s).snap = s.snap := rfl
@[simp] theorem writePsh_sr (id : Fin 46) (x : Num32) (s : State) : (writePsh id x s).sr = s.sr := rfl
@[simp] theorem writePsh_maxblk (id : Fin 46) (x : Num32) (s : State) : (writePsh id x s).maxblk = s.maxblk := rfl
@[simp] theorem writePsh_dbgmask (id : Fin 46) (x : Num32) (s : State) : (writePsh id x s).dbgmask = s.dbgmask := rfl
@[simp] theorem writePsh_mb (id : Fin 46) (x : Num32) (s : State) : (writePsh id x s).mb = s.mb := rfl
@[simp] theorem writePsh_frames (id : Fin 46) (x : Num32) (s : State) : (writePsh id x s).frames = s.frames := rfl
@[simp] theorem writePsh_audResp (id : Fin 46) (x : Num32) (s : State) : (writePsh id x s).audResp = s.audResp := rfl
@[simp] theorem writePsh_ctlResp (id : Fin 46) (x : Num32) (s : State) : (writePsh id x s).ctlResp = s.ctlResp := rfl
@[simp] theorem writePsh_audHeld (id : Fin 46) (x : Num32) (s : State) : (writePsh id x s).audHeld = s.audHeld := rfl
@[simp] theorem writePsh_ctlHeld (id : Fin 46) (x : Num32) (s : State) : (writePsh id x s).ctlHeld = s.ctlHeld := rfl
@[simp] theorem writePsh_inbox (id : Fin 46) (x : Num32) (s : State) : (writePsh id x s).inbox = s.inbox := rfl
@[simp] theorem writePsh_port (id : Fin 46) (x : Num32) (s : State) : (writePsh id x s).port = s.port := rfl
@[simp] theorem writePsh_draws (id : Fin 46) (x : Num32) (s : State) : (writePsh id x s).draws = s.draws := rfl
@[simp] theorem writePsh_snaps (id : Fin 46) (x : Num32) (s : State) : (writePsh id x s).snaps = s.snaps := rfl

/-! ### setMask -/

@[simp] theorem setMask_voices (m : BitVec 8) (s : State) : (setMask m s).voices = s.voices := rfl
@[simp] theorem setMask_psh (m : BitVec 8) (s : State) : (setMask m s).psh = s.psh := rfl
@[simp] theorem setMask_snap (m : BitVec 8) (s : State) : (setMask m s).snap = s.snap := rfl
@[simp] theorem setMask_sr (m : BitVec 8) (s : State) : (setMask m s).sr = s.sr := rfl
@[simp] theorem setMask_maxblk (m : BitVec 8) (s : State) : (setMask m s).maxblk = s.maxblk := rfl
@[simp] theorem setMask_dbgmask (m : BitVec 8) (s : State) : (setMask m s).dbgmask = m := rfl
@[simp] theorem setMask_mb (m : BitVec 8) (s : State) : (setMask m s).mb = s.mb := rfl
@[simp] theorem setMask_frames (m : BitVec 8) (s : State) : (setMask m s).frames = s.frames := rfl
@[simp] theorem setMask_audResp (m : BitVec 8) (s : State) : (setMask m s).audResp = s.audResp := rfl
@[simp] theorem setMask_ctlResp (m : BitVec 8) (s : State) : (setMask m s).ctlResp = s.ctlResp := rfl
@[simp] theorem setMask_audHeld (m : BitVec 8) (s : State) : (setMask m s).audHeld = s.audHeld := rfl
@[simp] theorem setMask_ctlHeld (m : BitVec 8) (s : State) : (setMask m s).ctlHeld = s.ctlHeld := rfl
@[simp] theorem setMask_inbox (m : BitVec 8) (s : State) : (setMask m s).inbox = s.inbox := rfl
@[simp] theorem setMask_port (m : BitVec 8) (s : State) : (setMask m s).port = s.port := rfl
@[simp] theorem setMask_draws (m : BitVec 8) (s : State) : (setMask m s).draws = s.draws := rfl
@[simp] theorem setMask_snaps (m : BitVec 8) (s : State) : (setMask m s).snaps = s.snaps := rfl

/-! ### latchSnap -/

@[simp] theorem latchSnap_voices (b : Bank Num32) (s : State) : (latchSnap b s).voices = s.voices := rfl
@[simp] theorem latchSnap_psh (b : Bank Num32) (s : State) : (latchSnap b s).psh = s.psh := rfl
@[simp] theorem latchSnap_snap (b : Bank Num32) (s : State) : (latchSnap b s).snap = b := rfl
@[simp] theorem latchSnap_sr (b : Bank Num32) (s : State) : (latchSnap b s).sr = s.sr := rfl
@[simp] theorem latchSnap_maxblk (b : Bank Num32) (s : State) : (latchSnap b s).maxblk = s.maxblk := rfl
@[simp] theorem latchSnap_dbgmask (b : Bank Num32) (s : State) : (latchSnap b s).dbgmask = s.dbgmask := rfl
@[simp] theorem latchSnap_mb (b : Bank Num32) (s : State) : (latchSnap b s).mb = s.mb := rfl
@[simp] theorem latchSnap_frames (b : Bank Num32) (s : State) : (latchSnap b s).frames = s.frames := rfl
@[simp] theorem latchSnap_audResp (b : Bank Num32) (s : State) : (latchSnap b s).audResp = s.audResp := rfl
@[simp] theorem latchSnap_ctlResp (b : Bank Num32) (s : State) : (latchSnap b s).ctlResp = s.ctlResp := rfl
@[simp] theorem latchSnap_audHeld (b : Bank Num32) (s : State) : (latchSnap b s).audHeld = s.audHeld := rfl
@[simp] theorem latchSnap_ctlHeld (b : Bank Num32) (s : State) : (latchSnap b s).ctlHeld = s.ctlHeld := rfl
@[simp] theorem latchSnap_inbox (b : Bank Num32) (s : State) : (latchSnap b s).inbox = s.inbox := rfl
@[simp] theorem latchSnap_port (b : Bank Num32) (s : State) : (latchSnap b s).port = s.port := rfl
@[simp] theorem latchSnap_draws (b : Bank Num32) (s : State) : (latchSnap b s).draws = s.draws := rfl
@[simp] theorem latchSnap_snaps (b : Bank Num32) (s : State) : (latchSnap b s).snaps = s.snaps := rfl

/-! ### countSnap -/

@[simp] theorem countSnap_voices (s : State) : (countSnap s).voices = s.voices := rfl
@[simp] theorem countSnap_psh (s : State) : (countSnap s).psh = s.psh := rfl
@[simp] theorem countSnap_snap (s : State) : (countSnap s).snap = s.snap := rfl
@[simp] theorem countSnap_sr (s : State) : (countSnap s).sr = s.sr := rfl
@[simp] theorem countSnap_maxblk (s : State) : (countSnap s).maxblk = s.maxblk := rfl
@[simp] theorem countSnap_dbgmask (s : State) : (countSnap s).dbgmask = s.dbgmask := rfl
@[simp] theorem countSnap_mb (s : State) : (countSnap s).mb = s.mb := rfl
@[simp] theorem countSnap_frames (s : State) : (countSnap s).frames = s.frames := rfl
@[simp] theorem countSnap_audResp (s : State) : (countSnap s).audResp = s.audResp := rfl
@[simp] theorem countSnap_ctlResp (s : State) : (countSnap s).ctlResp = s.ctlResp := rfl
@[simp] theorem countSnap_audHeld (s : State) : (countSnap s).audHeld = s.audHeld := rfl
@[simp] theorem countSnap_ctlHeld (s : State) : (countSnap s).ctlHeld = s.ctlHeld := rfl
@[simp] theorem countSnap_inbox (s : State) : (countSnap s).inbox = s.inbox := rfl
@[simp] theorem countSnap_port (s : State) : (countSnap s).port = s.port := rfl
@[simp] theorem countSnap_draws (s : State) : (countSnap s).draws = s.draws := rfl
@[simp] theorem countSnap_snaps (s : State) : (countSnap s).snaps = s.snaps + 1 := rfl

/-! ### takeWords -/

@[simp] theorem takeWords_voices (p : Port) (aud ctl : Option Word) (rest : List Arrival) (s : State) : (takeWords p aud ctl rest s).voices = s.voices := rfl
@[simp] theorem takeWords_psh (p : Port) (aud ctl : Option Word) (rest : List Arrival) (s : State) : (takeWords p aud ctl rest s).psh = s.psh := rfl
@[simp] theorem takeWords_snap (p : Port) (aud ctl : Option Word) (rest : List Arrival) (s : State) : (takeWords p aud ctl rest s).snap = s.snap := rfl
@[simp] theorem takeWords_sr (p : Port) (aud ctl : Option Word) (rest : List Arrival) (s : State) : (takeWords p aud ctl rest s).sr = s.sr := rfl
@[simp] theorem takeWords_maxblk (p : Port) (aud ctl : Option Word) (rest : List Arrival) (s : State) : (takeWords p aud ctl rest s).maxblk = s.maxblk := rfl
@[simp] theorem takeWords_dbgmask (p : Port) (aud ctl : Option Word) (rest : List Arrival) (s : State) : (takeWords p aud ctl rest s).dbgmask = s.dbgmask := rfl
@[simp] theorem takeWords_mb (p : Port) (aud ctl : Option Word) (rest : List Arrival) (s : State) : (takeWords p aud ctl rest s).mb = s.mb := rfl
@[simp] theorem takeWords_frames (p : Port) (aud ctl : Option Word) (rest : List Arrival) (s : State) : (takeWords p aud ctl rest s).frames = s.frames := rfl
@[simp] theorem takeWords_audResp (p : Port) (aud ctl : Option Word) (rest : List Arrival) (s : State) : (takeWords p aud ctl rest s).audResp = s.audResp := rfl
@[simp] theorem takeWords_ctlResp (p : Port) (aud ctl : Option Word) (rest : List Arrival) (s : State) : (takeWords p aud ctl rest s).ctlResp = s.ctlResp := rfl
@[simp] theorem takeWords_audHeld (p : Port) (aud ctl : Option Word) (rest : List Arrival) (s : State) : (takeWords p aud ctl rest s).audHeld = aud := rfl
@[simp] theorem takeWords_ctlHeld (p : Port) (aud ctl : Option Word) (rest : List Arrival) (s : State) : (takeWords p aud ctl rest s).ctlHeld = ctl := rfl
@[simp] theorem takeWords_inbox (p : Port) (aud ctl : Option Word) (rest : List Arrival) (s : State) : (takeWords p aud ctl rest s).inbox = rest := rfl
@[simp] theorem takeWords_port (p : Port) (aud ctl : Option Word) (rest : List Arrival) (s : State) : (takeWords p aud ctl rest s).port = p := rfl
@[simp] theorem takeWords_draws (p : Port) (aud ctl : Option Word) (rest : List Arrival) (s : State) : (takeWords p aud ctl rest s).draws = s.draws := rfl
@[simp] theorem takeWords_snaps (p : Port) (aud ctl : Option Word) (rest : List Arrival) (s : State) : (takeWords p aud ctl rest s).snaps = s.snaps := rfl

/-! ### prepareState -/

@[simp] theorem prepareState_voices (c : Config Num32) (mb : BitVec 16) (sr : BitVec 32) (s : State) : (prepareState c mb sr s).voices = clearedVoices c := rfl
@[simp] theorem prepareState_psh (c : Config Num32) (mb : BitVec 16) (sr : BitVec 32) (s : State) : (prepareState c mb sr s).psh = s.psh := rfl
@[simp] theorem prepareState_snap (c : Config Num32) (mb : BitVec 16) (sr : BitVec 32) (s : State) : (prepareState c mb sr s).snap = s.snap := rfl
@[simp] theorem prepareState_sr (c : Config Num32) (mb : BitVec 16) (sr : BitVec 32) (s : State) : (prepareState c mb sr s).sr = some (rateOf sr) := rfl
@[simp] theorem prepareState_maxblk (c : Config Num32) (mb : BitVec 16) (sr : BitVec 32) (s : State) : (prepareState c mb sr s).maxblk = mb := rfl
@[simp] theorem prepareState_dbgmask (c : Config Num32) (mb : BitVec 16) (sr : BitVec 32) (s : State) : (prepareState c mb sr s).dbgmask = s.dbgmask := rfl
@[simp] theorem prepareState_mb (c : Config Num32) (mb : BitVec 16) (sr : BitVec 32) (s : State) : (prepareState c mb sr s).mb = clearedBus c := rfl
@[simp] theorem prepareState_frames (c : Config Num32) (mb : BitVec 16) (sr : BitVec 32) (s : State) : (prepareState c mb sr s).frames = s.frames := rfl
@[simp] theorem prepareState_audResp (c : Config Num32) (mb : BitVec 16) (sr : BitVec 32) (s : State) : (prepareState c mb sr s).audResp = s.audResp := rfl
@[simp] theorem prepareState_ctlResp (c : Config Num32) (mb : BitVec 16) (sr : BitVec 32) (s : State) : (prepareState c mb sr s).ctlResp = s.ctlResp := rfl
@[simp] theorem prepareState_audHeld (c : Config Num32) (mb : BitVec 16) (sr : BitVec 32) (s : State) : (prepareState c mb sr s).audHeld = s.audHeld := rfl
@[simp] theorem prepareState_ctlHeld (c : Config Num32) (mb : BitVec 16) (sr : BitVec 32) (s : State) : (prepareState c mb sr s).ctlHeld = s.ctlHeld := rfl
@[simp] theorem prepareState_inbox (c : Config Num32) (mb : BitVec 16) (sr : BitVec 32) (s : State) : (prepareState c mb sr s).inbox = s.inbox := rfl
@[simp] theorem prepareState_port (c : Config Num32) (mb : BitVec 16) (sr : BitVec 32) (s : State) : (prepareState c mb sr s).port = s.port := rfl
@[simp] theorem prepareState_draws (c : Config Num32) (mb : BitVec 16) (sr : BitVec 32) (s : State) : (prepareState c mb sr s).draws = s.draws := rfl
@[simp] theorem prepareState_snaps (c : Config Num32) (mb : BitVec 16) (sr : BitVec 32) (s : State) : (prepareState c mb sr s).snaps = s.snaps := rfl

/-! ### placeCommand -/

@[simp] theorem placeCommand_voices (ws : List Word) (s : State) : (placeCommand ws s).voices = s.voices := rfl
@[simp] theorem placeCommand_psh (ws : List Word) (s : State) : (placeCommand ws s).psh = s.psh := rfl
@[simp] theorem placeCommand_snap (ws : List Word) (s : State) : (placeCommand ws s).snap = s.snap := rfl
@[simp] theorem placeCommand_sr (ws : List Word) (s : State) : (placeCommand ws s).sr = s.sr := rfl
@[simp] theorem placeCommand_maxblk (ws : List Word) (s : State) : (placeCommand ws s).maxblk = s.maxblk := rfl
@[simp] theorem placeCommand_dbgmask (ws : List Word) (s : State) : (placeCommand ws s).dbgmask = s.dbgmask := rfl
@[simp] theorem placeCommand_mb (ws : List Word) (s : State) : (placeCommand ws s).mb = s.mb := rfl
@[simp] theorem placeCommand_frames (ws : List Word) (s : State) : (placeCommand ws s).frames = s.frames := rfl
@[simp] theorem placeCommand_audResp (ws : List Word) (s : State) : (placeCommand ws s).audResp = s.audResp := rfl
@[simp] theorem placeCommand_ctlResp (ws : List Word) (s : State) : (placeCommand ws s).ctlResp = s.ctlResp := rfl
@[simp] theorem placeCommand_audHeld (ws : List Word) (s : State) : (placeCommand ws s).audHeld = none := rfl
@[simp] theorem placeCommand_ctlHeld (ws : List Word) (s : State) : (placeCommand ws s).ctlHeld = s.ctlHeld := rfl
@[simp] theorem placeCommand_inbox (ws : List Word) (s : State) : (placeCommand ws s).inbox = ws.map (Arrival.mk .aud) ++ s.inbox := rfl
@[simp] theorem placeCommand_port (ws : List Word) (s : State) : (placeCommand ws s).port = s.port := rfl
@[simp] theorem placeCommand_draws (ws : List Word) (s : State) : (placeCommand ws s).draws = s.draws := rfl
@[simp] theorem placeCommand_snaps (ws : List Word) (s : State) : (placeCommand ws s).snaps = s.snaps := rfl

/-! ### tick -/

@[simp] theorem tick_voices (c : Config Num32) (sr : BitVec 32) (s : State) : (tick c sr s).voices = voicesAfter c s.snap sr s.voices := by unfold tick; rfl
@[simp] theorem tick_psh (c : Config Num32) (sr : BitVec 32) (s : State) : (tick c sr s).psh = s.psh := by unfold tick; rfl
@[simp] theorem tick_snap (c : Config Num32) (sr : BitVec 32) (s : State) : (tick c sr s).snap = s.snap := by unfold tick; rfl
@[simp] theorem tick_sr (c : Config Num32) (sr : BitVec 32) (s : State) : (tick c sr s).sr = s.sr := by unfold tick; rfl
@[simp] theorem tick_maxblk (c : Config Num32) (sr : BitVec 32) (s : State) : (tick c sr s).maxblk = s.maxblk := by unfold tick; rfl
@[simp] theorem tick_dbgmask (c : Config Num32) (sr : BitVec 32) (s : State) : (tick c sr s).dbgmask = s.dbgmask := by unfold tick; rfl
@[simp] theorem tick_mb (c : Config Num32) (sr : BitVec 32) (s : State) : (tick c sr s).mb = busAfter c s.snap sr s.voices s.mb := by unfold tick; rfl
@[simp] theorem tick_frames (c : Config Num32) (sr : BitVec 32) (s : State) : (tick c sr s).frames = s.frames ++ [frameOf c (busAfter c s.snap sr s.voices s.mb)] := by unfold tick; rfl
@[simp] theorem tick_audResp (c : Config Num32) (sr : BitVec 32) (s : State) : (tick c sr s).audResp = s.audResp := by unfold tick; rfl
@[simp] theorem tick_ctlResp (c : Config Num32) (sr : BitVec 32) (s : State) : (tick c sr s).ctlResp = s.ctlResp := by unfold tick; rfl
@[simp] theorem tick_audHeld (c : Config Num32) (sr : BitVec 32) (s : State) : (tick c sr s).audHeld = s.audHeld := by unfold tick; rfl
@[simp] theorem tick_ctlHeld (c : Config Num32) (sr : BitVec 32) (s : State) : (tick c sr s).ctlHeld = s.ctlHeld := by unfold tick; rfl
@[simp] theorem tick_inbox (c : Config Num32) (sr : BitVec 32) (s : State) : (tick c sr s).inbox = s.inbox := by unfold tick; rfl
@[simp] theorem tick_port (c : Config Num32) (sr : BitVec 32) (s : State) : (tick c sr s).port = s.port := by unfold tick; rfl
@[simp] theorem tick_draws (c : Config Num32) (sr : BitVec 32) (s : State) : (tick c sr s).draws = s.draws := by unfold tick; rfl
@[simp] theorem tick_snaps (c : Config Num32) (sr : BitVec 32) (s : State) : (tick c sr s).snaps = s.snaps := by unfold tick; rfl

/-! ### respond -/

@[simp] theorem respond_voices (p : Port) (w : Word) (s : State) : (respond p w s).voices = s.voices := by cases p <;> rfl
@[simp] theorem respond_psh (p : Port) (w : Word) (s : State) : (respond p w s).psh = s.psh := by cases p <;> rfl
@[simp] theorem respond_snap (p : Port) (w : Word) (s : State) : (respond p w s).snap = s.snap := by cases p <;> rfl
@[simp] theorem respond_sr (p : Port) (w : Word) (s : State) : (respond p w s).sr = s.sr := by cases p <;> rfl
@[simp] theorem respond_maxblk (p : Port) (w : Word) (s : State) : (respond p w s).maxblk = s.maxblk := by cases p <;> rfl
@[simp] theorem respond_dbgmask (p : Port) (w : Word) (s : State) : (respond p w s).dbgmask = s.dbgmask := by cases p <;> rfl
@[simp] theorem respond_mb (p : Port) (w : Word) (s : State) : (respond p w s).mb = s.mb := by cases p <;> rfl
@[simp] theorem respond_frames (p : Port) (w : Word) (s : State) : (respond p w s).frames = s.frames := by cases p <;> rfl
@[simp] theorem respond_audHeld (p : Port) (w : Word) (s : State) : (respond p w s).audHeld = s.audHeld := by cases p <;> rfl
@[simp] theorem respond_ctlHeld (p : Port) (w : Word) (s : State) : (respond p w s).ctlHeld = s.ctlHeld := by cases p <;> rfl
@[simp] theorem respond_inbox (p : Port) (w : Word) (s : State) : (respond p w s).inbox = s.inbox := by cases p <;> rfl
@[simp] theorem respond_port (p : Port) (w : Word) (s : State) : (respond p w s).port = s.port := by cases p <;> rfl
@[simp] theorem respond_draws (p : Port) (w : Word) (s : State) : (respond p w s).draws = s.draws := by cases p <;> rfl
@[simp] theorem respond_snaps (p : Port) (w : Word) (s : State) : (respond p w s).snaps = s.snaps := by cases p <;> rfl
@[simp] theorem respond_aud_audResp (w : Word) (s : State) : (respond .aud w s).audResp = s.audResp ++ [w] := rfl
@[simp] theorem respond_aud_ctlResp (w : Word) (s : State) : (respond .aud w s).ctlResp = s.ctlResp := rfl
@[simp] theorem respond_ctl_audResp (w : Word) (s : State) : (respond .ctl w s).audResp = s.audResp := rfl
@[simp] theorem respond_ctl_ctlResp (w : Word) (s : State) : (respond .ctl w s).ctlResp = s.ctlResp ++ [w] := rfl

@[simp] theorem ignored_eq (s : State) : ignored s = s := rfl

end Sys2Proof.Machine
end

