-- ==== Sys2Proof/Laws/Ops.lean ====
section
/-! SUPPORT. For each shared operation, one lemma that says what it can do. -/

namespace Sys2Proof.Machine

/-! ### Ports -/

theorem onAud_of_aud {s : State} (h : s.port = .aud) (e : Host.Outcome State Fault Refusal) : onAud s e = e := by
  simp [onAud, h]

theorem onAud_of_ctl {s : State} (h : s.port = .ctl) (e : Host.Outcome State Fault Refusal) : onAud s e = .next s := by
  simp [onAud, h]

/-! ### Selection of a slot -/

/-- A free slot is found exactly when it is the lowest one. -/
theorem firstFree_eq_some {vs : Vector (Voice Num32) 32} {i : Fin 32} :
    firstFree vs = some i ↔ (voiceAt vs i).active = false ∧ ∀ j : Fin 32, j < i → (voiceAt vs j).active = true := by
  unfold firstFree
  rw [List.find?_eq_some_iff_getElem]
  constructor
  · rintro ⟨h1, n, hn, he, hlt⟩
    have hi : i.val = n := by rw [← he]; simp
    refine ⟨by simpa using h1, fun j hj => ?_⟩
    have hjn : j.val < n := by have := hj; omega
    have := hlt j.val hjn
    simpa using this
  · rintro ⟨h1, h2⟩
    refine ⟨by simp [h1], i.val, by simp, by simp, fun j hj => ?_⟩
    have := h2 ⟨j, by omega⟩ hj
    simpa using this

theorem firstFree_eq_none {vs : Vector (Voice Num32) 32} : firstFree vs = none ↔ ∀ j : Fin 32, (voiceAt vs j).active = true := by
  simp [firstFree]

/-- The comparison of `oldest`. -/
theorem foldl_oldest (vs : Vector (Voice Num32) 32) (l : List (Fin 32)) (b : Fin 32) (r : Fin 32)
    (hr : r = l.foldl (fun best i =>
      if (voiceAt vs best).sidx.toNat < (voiceAt vs i).sidx.toNat then i else best) b) :
    ∀ j ∈ b :: l, (voiceAt vs j).sidx.toNat ≤ (voiceAt vs r).sidx.toNat := by
  induction l generalizing b with
  | nil => simp_all
  | cons a l ih =>
    simp only [List.foldl_cons] at hr
    split at hr
    · rename_i h
      intro j hj
      rcases List.mem_cons.1 hj with rfl | hj
      · have := ih a hr a (by simp)
        omega
      · exact ih a hr j hj
    · rename_i h
      intro j hj
      have hb := ih b hr b (by simp)
      rcases List.mem_cons.1 hj with rfl | hj
      · exact hb
      · rcases List.mem_cons.1 hj with rfl | hj
        · omega
        · exact ih b hr j (by simp [hj])

/-- No record is older than the one `oldest` gives. -/
theorem sidx_le_oldest (vs : Vector (Voice Num32) 32) (j : Fin 32) : (voiceAt vs j).sidx.toNat ≤ (voiceAt vs (oldest vs)).sidx.toNat :=
  foldl_oldest vs (List.finRange 32) 0 (oldest vs) rfl j (by simp)

/-- Reading a slot after a write of a slot. -/
theorem voiceAt_set (vs : Vector (Voice Num32) 32) (i j : Fin 32) (v : Voice Num32) :
    voiceAt (vs.set i v) j = if i = j then v else voiceAt vs j := by
  simp only [voiceAt, Fin.getElem_fin, Vector.getElem_set, Fin.ext_iff]

/-- Reading a register after a write of a register. -/
theorem regRead_set (b : Bank Num32) (i j : Fin 46) (x : Num32) :
    regRead (b.set i x) j = if i = j then x else regRead b j := by
  simp only [regRead, Fin.getElem_fin, Vector.getElem_set, Fin.ext_iff]

/-! ### Allocation -/

/-- What an allocation does to the state: one record is rewritten, and one draw is used. -/
theorem allocate_eq (c : Config Num32) (dt : DrumType) (vel : Num32) (off : Int) (s : State) :
    allocate c dt vel off s =
      { s with
        voices := s.voices.set (select s.voices) (newVoice c (c.draw s.draws) dt vel off)
        draws := s.draws + 1 } := rfl

/-- What a list of debug hits leaves alone. -/
theorem playHits_frame (c : Config Num32) (hits : List DrumType) (s : State) :
    playHits c hits s =
      { s with voices := (playHits c hits s).voices, draws := s.draws + hits.length } := by
  induction hits generalizing s with
  | nil => rfl
  | cons k hits ih =>
    have h : playHits c (k :: hits) s = playHits c hits (allocate c k (debugVelocity c) 0 s) := rfl
    rw [h, ih]
    simp only [allocate_eq, List.length_cons]
    congr 1
    omega

/-! ### Rendering -/

theorem ticks_succ (c : Config Num32) (sr : BitVec 32) (n : Nat) (s : State) :
    ticks c sr (n + 1) s = ticks c sr n (tick c sr s) := rfl

theorem ticks_add (c : Config Num32) (sr : BitVec 32) (m n : Nat) (s : State) :
    ticks c sr (m + n) s = ticks c sr n (ticks c sr m s) := by
  induction m generalizing s with
  | zero => simp [ticks]
  | succ m ih => rw [Nat.succ_add, ticks_succ, ih, ticks_succ]

/-- Ticks change the voice file, the master bus and the output stream only. -/
theorem ticks_frame (c : Config Num32) (sr : BitVec 32) (n : Nat) (s : State) :
    ticks c sr n s =
      { s with
        voices := (ticks c sr n s).voices
        mb := (ticks c sr n s).mb
        frames := (ticks c sr n s).frames } := by
  induction n generalizing s with
  | zero => rfl
  | succ n ih =>
    rw [ticks_succ, ih]
    simp

/-! ### Words of the ports -/

/-- With no CTL command waiting, nothing falls inside a SNAP. -/
theorem overlapCtl_of_none {c : Config Num32} {n fuel j : Nat} {s : State} (h : nextCtl s = none) :
    overlapCtl c n fuel j s = ⟨[s.psh], s⟩ := by
  cases fuel <;> simp [overlapCtl, h]

/-- With one bank to read, a SNAP copies it. -/
theorem latched_singleton (c : Config Num32) (n : Nat) (b now : Bank Num32) : latched c n [b] now = b := by
  ext i hi
  simp [latched, bankAt, regRead]

/-- Words that AUD receives as the words of one command are fetched as that command. -/
theorem fetchFrom_aud_one {w : Word} (h : cmdWords w ≠ 2) (ctl : Option Word) (rest : List Arrival) :
    fetchFrom none ctl (⟨.aud, w⟩ :: rest) = .command .aud w 0 none ctl rest := by
  simp [fetchFrom, h]

theorem fetchFrom_aud_two {w : Word} (h : cmdWords w = 2) (w1 : Word) (ctl : Option Word) (rest : List Arrival) :
    fetchFrom none ctl (⟨.aud, w⟩ :: ⟨.aud, w1⟩ :: rest) = .command .aud w w1 none ctl rest := by
  simp [fetchFrom, h]

/-! ### Parameters -/

theorem regOf_eq_some {pid : BitVec 6} (h : pid.toNat < 46) : regOf pid = some ⟨pid.toNat, h⟩ := by
  simp [regOf, h]

theorem regOf_eq_none {pid : BitVec 6} (h : 46 ≤ pid.toNat) : regOf pid = none := by
  simp [regOf, Nat.not_lt.2 h]

/-- `SETP` writes the shadow bank and nothing else. -/
theorem setParam_frame (c : Config Num32) (pid : BitVec 6) (val : Word) (s : State) :
    setParam c pid val s = { s with psh := (setParam c pid val s).psh } := by
  unfold setParam
  split
  · rfl
  · split <;> rfl

/-- What a CTL command does: at most a shadow register, the debug mask and the CTL responses change. -/
theorem ctlEffect_frame (c : Config Num32) (d : Decoded) (s : State) :
    ctlEffect c d s =
      { s with
        psh := (ctlEffect c d s).psh
        dbgmask := (ctlEffect c d s).dbgmask
        ctlResp := (ctlEffect c d s).ctlResp } := by
  cases d with
  | illegal w => rfl
  | instr i =>
    cases i with
    | setp pid val =>
      have h : ctlEffect c (.instr (.setp pid val)) s = setParam c pid val s := rfl
      rw [h, setParam_frame]
    | _ => rfl

/-! ### The voice step, over any number format -/

section
variable {N : Type}

theorem voiceStep_of_free {c : Config N} {snap : Bank N} {sr : BitVec 32} {v : Voice N} (h : lifeState v = .free) :
    voiceStep c snap sr v = ⟨v, none⟩ := by simp [voiceStep, h]

theorem voiceStep_of_pending {c : Config N} {snap : Bank N} {sr : BitVec 32} {v : Voice N} (h : lifeState v = .pending) :
    voiceStep c snap sr v = ⟨{ v with sus := v.sus - 1 }, none⟩ := by simp [voiceStep, h]

theorem voiceStep_of_sounding {c : Config N} {snap : Bank N} {sr : BitVec 32} {v : Voice N} (h : lifeState v = .sounding) :
    voiceStep c snap sr v =
      ⟨afterInvocation (drumAlgOf c snap sr v), some (drumAlgOf c snap sr v).sample⟩ := by simp [voiceStep, h]

/-- The record in a slot after a tick is the visit of that record. -/
theorem voicesAfter_get (c : Config N) (snap : Bank N) (sr : BitVec 32) (vs : Vector (Voice N) 32) (i : Fin 32) :
    voiceAt (voicesAfter c snap sr vs) i = (voiceStep c snap sr (voiceAt vs i)).voice := by
  simp [voicesAfter, voiceAt]

/-! ### Generators: only the phases and the noise state move (41_voice_synthesis.md R157 b) -/

theorem osc_frame (c : Config N) (sr : BitVec 32) (j : Fin 3) (f : N) (v : Voice N) :
    (osc c sr j f v).2 = { v with ph := (osc c sr j f v).2.ph } := rfl

theorem nz_snd (c : Config N) (v : Voice N) : (nz c v).2 = { v with ns := xorshift32 v.ns } := rfl

/-- A generator changes the phases and the noise state of its record only. -/
theorem gen_frame (c : Config N) (sr : BitVec 32) (k : DrumType) (t tuneMul decay hl : N) (v : Voice N) :
    (gen c sr k t tuneMul decay hl v).2 =
      { v with
        ph := (gen c sr k t tuneMul decay hl v).2.ph
        ns := xorshift32 v.ns } := by
  cases k <;> rfl

/-- The post chain changes the tone filter state of its record only. -/
theorem post_frame (c : Config N) (snap : Bank N) (k : DrumType) (raw : N) (v : Voice N) :
    (post c snap k raw v).2 = { v with tlp := toneState c snap k raw v.tlp } := rfl

end

end Sys2Proof.Machine
end

