-- ==== Sys2Proof/Laws/PerInstr.lean ====
section
/-! SUPPORT. Statements made per instruction. `EncodedLength`: the encoder writes as many words as the decoder will take
for the first of them (30_encoding.md R81). -/

namespace Sys2Proof.Laws

/-- The words of a well-formed instruction are as many as its first word announces. -/
def EncodedLength.Statement (i : Instr) : Prop :=
  i.wellFormed = true → ∃ w0 rest, encode i = w0 :: rest ∧ rest.length + 1 = cmdWords w0

/-- The opcode of a first word. -/
theorem cmdOp_header (op : BitVec 4) (low : BitVec 28) : cmdOp (header op low) = op := by
  apply BitVec.eq_of_getLsbD_eq
  intro i hi
  simp only [cmdOp, header, BitVec.getLsbD_extractLsb', BitVec.getLsbD_append]
  have : ¬ 28 + i < 28 := by omega
  simp [hi]

/-- The low 28 bits of a first word. -/
theorem low_header (op : BitVec 4) (low : BitVec 28) : (header op low).extractLsb' 0 28 = low := by
  apply BitVec.eq_of_getLsbD_eq
  intro i hi
  simp only [header, BitVec.getLsbD_extractLsb', BitVec.getLsbD_append]
  simp [hi]

/-- The length of a command from its opcode. -/
theorem cmdWords_header (op : BitVec 4) (low : BitVec 28) :
    cmdWords (header op low) = if op = 1 ∨ op = 2 ∨ op = 5 then 2 else 1 := by
  unfold cmdWords
  rw [cmdOp_header]
  revert op
  decide

theorem EncodedLength.nop : EncodedLength.Statement .nop :=
  fun _ => ⟨_, _, rfl, by rw [cmdWords_header]; rfl⟩

theorem EncodedLength.prepare (mb : BitVec 16) (sr : BitVec 32) : EncodedLength.Statement (.prepare mb sr) :=
  fun _ => ⟨_, _, rfl, by rw [cmdWords_header]; rfl⟩

theorem EncodedLength.setp (pid : BitVec 6) (val : Word) : EncodedLength.Statement (.setp pid val) :=
  fun _ => ⟨_, _, rfl, by rw [cmdWords_header]; rfl⟩

theorem EncodedLength.getp (pid : BitVec 6) : EncodedLength.Statement (.getp pid) :=
  fun _ => ⟨_, _, rfl, by rw [cmdWords_header]; rfl⟩

theorem EncodedLength.snap : EncodedLength.Statement .snap :=
  fun _ => ⟨_, _, rfl, by rw [cmdWords_header]; rfl⟩

theorem EncodedLength.trig (dt : DrumType) (off : BitVec 24) (vel : Word) :
    EncodedLength.Statement (.trig dt off vel) :=
  fun _ => ⟨_, _, rfl, by rw [cmdWords_header]; rfl⟩

theorem EncodedLength.render (n : BitVec 16) : EncodedLength.Statement (.render n) :=
  fun _ => ⟨_, _, rfl, by rw [cmdWords_header]; rfl⟩

theorem EncodedLength.dbghit (dt : DrumType) : EncodedLength.Statement (.dbghit dt) :=
  fun _ => ⟨_, _, rfl, by rw [cmdWords_header]; rfl⟩

theorem EncodedLength.reserved (op : BitVec 4) (ignored : BitVec 28) :
    EncodedLength.Statement (.reserved op ignored) := by
  intro h
  refine ⟨_, _, rfl, ?_⟩
  rw [cmdWords_header]
  have h8 : 8 ≤ op.toNat := by simpa [Instr.wellFormed] using h
  have : ¬ (op = 1 ∨ op = 2 ∨ op = 5) := by
    rintro (rfl | rfl | rfl) <;> simp at h8
  rw [if_neg this]
  rfl

end Sys2Proof.Laws
end

