-- ==== Sys2Proof/Machine/Pseudo.lean ====
section
/-! DEFINITION. The pseudo-commands of the assembler (30_encoding.md R104, R105): expansions on the host's side into
commands of the table. The machine never sees them. -/

namespace Sys2Proof.Machine

/-- The fixed note map (R104); an unmapped note produces no trigger (60_exceptions.md R231). -/
def noteDrum (note : Nat) : Option DrumType :=
  match note with
  | 36 => some .kick
  | 37 => some .rim
  | 38 => some .snare
  | 39 => some .clap
  | 42 => some .closedHat
  | 46 => some .openHat
  | 49 => some .crash
  | 51 => some .ride
  | _ => none

/-- `NOTE note, vel, off` (R104). -/
def expandNote (note : Nat) (vel : Word) (off : BitVec 24) : List Instr :=
  match noteDrum note with
  | some k => [.trig k off vel]
  | none => []

/-- `BLOCK n` with its triggers (R105, 70_reset_and_hazards.md R270). -/
def expandBlock (n : BitVec 16) (trigs : List Instr) : List Instr := [.snap] ++ trigs ++ [.render n]

end Sys2Proof.Machine
end

