-- ==== Sys2Proof/Tests/Slice0.lean ====
section
/-! SUPPORT. Tests of single operations and steps, their expected values from 30_encoding.md and 95_test_vectors.md (V and P
numbers), and after them one witness for each statement that has hypotheses. -/

namespace Sys2Proof.Tests

-- One theorem after another: the kernel evaluations below need too much memory side by side.
set_option Elab.async false

open Sys2Proof.Machine

/-! ### Helpers -/

/-- A field of the next state, if there is one. -/
def field {α : Type} (o : Host.Outcome State Fault Refusal) (f : State → α) : Option α :=
  match o with
  | .next s => some (f s)
  | .fault _ => none
  | .refused _ => none

/-- The reset state with a written sample rate. -/
def ready (sr : BitVec 32) : State := { State.reset with sr := some sr }

/-- The reset state issuing a command on CTL. -/
def ctl : State := { State.reset with port := .ctl }

/-- An active record. -/
def hit (k : DrumType) (sus sidx : BitVec 32) : Voice Num32 :=
  { clearedVoice cfg with active := true, dtype := some k, vel := one, sus := sus, sidx := sidx }

/-- A prepared machine whose records are given by slot. -/
def pool (f : Fin 32 → Voice Num32) : State := { ready 48000 with voices := Vector.ofFn f }

/-- A configuration without free values in its functions and its ROM, into whose `SNAP`s every waiting CTL command falls. -/
def plain : Config Num32 :=
  { cfg with
    tanh := fun x => if F32.isNaN x then F32.nan else if F32.isZero x then x else F32.pack x.msb oneMag
    sin := fun x => if F32.isNaN x then F32.nan else one
    exp := fun x => if F32.lt x (F32.litNeg 1 1) then F32.lit 1 2 else one
    exp2 := fun x =>
      if x = one then F32.lit 2 1 else if x = F32.litNeg 1 1 then F32.lit 1 2
      else if x = F32.lit 2 1 then F32.lit 4 1 else if x = F32.litNeg 2 1 then F32.lit 1 4 else one
    sqrt := fun _ => one
    rom := romOf fun _ => one
    snapOverlap := fun _ _ => true }

/-! ### Well-formedness -/

theorem test_wellFormed_refuses_reserved_of_used_opcode : (Instr.reserved 7 0).wellFormed = false := by decide
theorem test_wellFormed_admits_reserved : (Instr.reserved 8 0xFFFFFFF).wellFormed = true := by decide

/-! ### Decoding: words written out bit by bit from the formats of R83 to R90 -/

theorem test_decode_nop : decode 0b0000_0000000000000000000000000000 0 = .instr .nop := by decide
theorem test_decode_prepare : decode 0b0001_000000000000_0000001000000000 0x0000AC44 = .instr (.prepare 512 44100) := by
  decide
theorem test_decode_setp : decode 0b0010_0000000000000000000000_001010 0xBF800000 = .instr (.setp 10 0xBF800000) := by
  decide
theorem test_decode_getp : decode 0b0011_0000000000000000000000_101101 0 = .instr (.getp 45) := by decide
theorem test_decode_snap : decode 0b0100_0000000000000000000000000000 0 = .instr .snap := by decide
theorem test_decode_trig :
    decode 0b0101_0_001_111111111111111111111111 0x3F000000 = .instr (.trig .snare (-1) 0x3F000000) := by decide
theorem test_decode_render : decode 0b0110_000000000000_1111111111111111 0 = .instr (.render 65535) := by decide
theorem test_decode_dbghit : decode 0b0111_0_111_000000000000000000000000 0 = .instr (.dbghit .rim) := by decide
theorem test_decode_reserved : decode 0b1000_0000000000000000000000000001 0 = .instr (.reserved 8 1) := by decide

/-- V9: one word with a reserved bit set for each opcode 0 to 7. -/
theorem test_decode_illegal :
    ([0x08000000, 0x00000001, 0x10010200, 0x20000040, 0x30000100, 0x40000001, 0x58000000, 0x60010000, 0x74000001].map
        fun w : Word => decode w 0x3F800000) =
      [0, 0, 1, 2, 3, 4, 5, 6, 7].map fun op => .illegal (.reservedBits op) := by decide

/-- V9: what follows an illegal `TRIG` is the word after its discarded second word. -/
theorem test_illegal_keeps_synchronisation :
    decodeWords [0x58000000, 0x3F800000, 0x40000000] = .command (.illegal (.reservedBits 5)) [0x40000000] := by decide

/-- R64: the least significant byte first. -/
theorem test_decode_bytes :
    decodeBytes .little [0x00, 0x02, 0x00, 0x10, 0x44, 0xAC, 0x00, 0x00] = .command (.instr (.prepare 512 44100)) [] := by decide

theorem test_table_word_of_trig : decodeTableWord 64 0x3F80000052000100 = some (.trig .closedHat 256 0x3F800000) := by
  decide
theorem test_table_word_zero_above : decodeTableWord 32 0x52000100 = some (.trig .closedHat 256 0) := by decide
theorem test_table_word_illegal : decodeTableWord 32 0x60010000 = none := by decide

/-- R64, 93 U23: the same words in the other byte order. -/
theorem test_decode_bytes_big :
    decodeBytes .big [0x10, 0x00, 0x02, 0x00, 0x00, 0x00, 0xAC, 0x44] = .command (.instr (.prepare 512 44100)) [] := by decide

/-! ### Steps -/

/-- A placed word runs as AUD's command. -/
theorem test_step_runs_placed_word :
    field (step (State.reset.withFetchWord 64 0x0000AC4410000200)) (fun s => (s.sr, s.maxblk, s.inbox)) =
      some (some 44100, 512, []) := by decide

/-- V10d: `PREPARE` on CTL consumes its two words and does nothing else. -/
theorem test_step_wrong_port :
    field (step { State.reset with inbox := [⟨.ctl, 0x10000200⟩, ⟨.ctl, 0x0000AC44⟩] }) (fun s => (s.sr, s.maxblk, s.inbox)) =
      some (none, 0, []) := by decide

/-- R65: half a command waits. -/
theorem test_step_half_command :
    field (step { State.reset with inbox := [⟨.aud, 0x50000000⟩] }) (fun s => (s.audHeld, s.inbox, s.draws)) =
      some (some 0x50000000, [], 0) := by decide

/-! ### NOP, reserved opcodes, PREPARE, RENDER -/

theorem test_nop : exec .nop ctl = .next ctl := rfl
theorem test_reserved : exec (.reserved 15 1) ctl = .next ctl := rfl

/-- V51. -/
theorem test_prepare_floor :
    (field (exec (.prepare 64 0x00001B58) State.reset) (fun s => (s.sr, s.maxblk)) = some (some 8000, 64)) ∧
      field (exec (.prepare 0xFFFF 0xFFFFFFFF) State.reset) (fun s => (s.sr, s.maxblk)) =
        some (some 4294967295, 65535) := by decide

/-- V52. -/
theorem test_prepare_keeps_mask :
    field (exec (.prepare 512 44100) { pool (fun _ => hit .kick 0 9) with dbgmask := 4, mb := ⟨one, one, one⟩ })
      (fun s => (s.dbgmask, (voiceAt s.voices 5).active, s.mb)) = some (4, false, ⟨0, 0, 0⟩) := by decide

/-- V54. -/
theorem test_render_refused : exec (.render 0) State.reset = .refused .renderBeforePrepare := rfl

/-- V20: three of five ticks of a hit at offset 5 are countdown. -/
theorem test_render_counts_down :
    field (exec (.render 3) (pool fun _ => hit .kick 5 0)) (fun s => ((voiceAt s.voices 31).sus, s.frames.length)) =
      some (2, 3) := by decide +kernel

/-! ### SETP and GETP -/

/-- V45. -/
theorem test_setp_clamps :
    (field (exec (.setp 6 0x40000000) State.reset) (fun s => regRead s.psh 6) = some 0x3FC00000) ∧
      (field (exec (.setp 0 0xC2200000) State.reset) (fun s => regRead s.psh 0) = some 0xC1400000) ∧
      (field (exec (.setp 1 0x3DCCCCCD) State.reset) (fun s => regRead s.psh 1) = some 0x3E99999A) ∧
      (field (exec (.setp 38 0) State.reset) (fun s => regRead s.psh 38) = some 0x3E4CCCCD) ∧
      (field (exec (.setp 2 0x3F333333) State.reset) (fun s => regRead s.psh 2) = some 0x3F333333) ∧
      field (exec (.setp 0 0x7F800000) State.reset) (fun s => regRead s.psh 0) = some 0x41400000 := by decide +kernel

/-- V46, V47, and R213's -0. -/
theorem test_setp_ignores :
    (field (exec (.setp 0 0x7FC00000) State.reset) (fun s => regRead s.psh 0) = some 0) ∧
      (field (exec (.setp 46 one) State.reset) (fun s => decide (s = State.reset)) = some true) ∧
      field (exec (.setp 2 0x80000000) State.reset) (fun s => regRead s.psh 2) = some 0x80000000 := by decide +kernel

/-- V48: the shadow bank, not the snapshot, is read. -/
theorem test_getp_reads_shadow :
    field (exec (.getp 6) { ctl with psh := ctl.psh.set 6 0x3FC00000 }) (fun s => (s.audResp, s.ctlResp)) =
      some ([], [0x3FC00000]) := by decide +kernel

/-- V47, V48. -/
theorem test_getp_unknown_and_default :
    (field (exec (.getp 46) State.reset) (·.audResp) = some [0]) ∧
      (field (exec (.getp 1) State.reset) (·.audResp) = some [0x3F800000]) ∧
      field (exec (.getp 2) State.reset) (·.audResp) = some [0x3F000000] := by decide +kernel

/-! ### SNAP and DBGHIT -/

/-- V50. -/
theorem test_snap_drains :
    field (exec .snap { State.reset with dbgmask := 0x81 })
      (fun s => (s.dbgmask, (voiceAt s.voices 0).dtype, (voiceAt s.voices 1).dtype, (voiceAt s.voices 1).sus,
        (voiceAt s.voices 2).active)) = some (0, some .kick, some .rim, 0, false) := by decide

/-- P5: `SNAP[6]` is 1.5 after the `SNAP`. -/
theorem test_snap_copies :
    field (exec .snap { State.reset with psh := State.reset.psh.set 6 0x3FC00000 }) (fun s => regRead s.snap 6) =
      some 0x3FC00000 := by decide +kernel

/-- R219: `DBGHIT crash` sets bit 4. -/
theorem test_dbghit : field (exec (.dbghit .crash) { ctl with dbgmask := 0x81 }) (·.dbgmask) = some 0x91 := by decide

/-! ### TRIG and allocation -/

/-- V12, V15: slot 2 is the lowest free one; an offset of -1 starts at once. -/
theorem test_trig_takes_hole :
    field (exec (.trig .snare (-1) 0x3F000000)
        (pool fun i => if i = 0 ∨ i = 1 ∨ i = 3 then hit .kick 0 9 else clearedVoice cfg))
      (fun s => ((voiceAt s.voices 2).active, (voiceAt s.voices 2).dtype, (voiceAt s.voices 2).sus,
        (voiceAt s.voices 4).active)) = some (true, some .snare, 0, false) := by decide +kernel

/-- V13: the greatest `sidx` is in slot 9. -/
theorem test_trig_steals_oldest :
    field (exec (.trig .rim 0x7FFFFF one)
        (pool fun i => if i = 9 then hit .kick 0 5000 else hit .kick 0 (BitVec.ofNat 32 (100 + i.val))))
      (fun s => ((voiceAt s.voices 9).dtype, (voiceAt s.voices 9).sidx, (voiceAt s.voices 9).sus,
        (voiceAt s.voices 31).sidx)) = some (some .rim, 0, 8388607, 131) := by decide +kernel

/-- V14: on a tie the lowest slot. -/
theorem test_select_tie : select (Vector.ofFn fun _ => hit .kick 0 77) = 0 := by decide +kernel

/-- V11: the fields of the record, with the draw given. -/
theorem test_new_voice :
    newVoice cfg ⟨0x3E800000, 0x3F000000, 0x3F400000, 0x12345678⟩ .kick one 0 =
      ⟨true, some .kick, one, 0, 0, #v[0x3E800000, 0x3F000000, 0x3F400000], 0x12345679, 0⟩ := by decide +kernel

/-- V16, V17. -/
theorem test_velocity :
    [0x3FD9999A, 0xBE4CCCCD, 0x7F800000, 0xFF800000, 0x7FC00000].map (velocityOf cfg) = [one, 0, one, 0, 0] := by
  decide +kernel

/-- R104, R105: the pseudo-commands. -/
theorem test_pseudo :
    expandNote 36 one 0 = [.trig .kick 0 one] ∧ expandNote 40 one 0 = [] ∧
      expandBlock 512 [.trig .kick 0 one] = [.snap, .trig .kick 0 one, .render 512] := by decide

/-! ### The number format -/

/-- R6: half of the least normal number is kept without `FTZ` and flushed with it, the sign kept (log 4). -/
theorem test_ftz :
    cfg.mul 0x80800000 0x3F000000 = 0x80400000 ∧
      ({ cfg with ftz := true } : Config Num32).mul 0x80800000 0x3F000000 = 0x80000000 := by decide +kernel

/-! ### The tick -/

/-- V24, V25, V27. -/
theorem test_xorshift :
    [1, 0x00042021, 0x04080601, 0x9DCCA8C5, 0x1255994F, 0xFFFFFFFF, 0x80000001, 0x12345679, 0xDEADBEEF, 0x00020001].map
        xorshift32 =
      [0x00042021, 0x04080601, 0x9DCCA8C5, 0x1255994F, 0x8EF917D1, 0x0003E01F, 0x800C6021, 0x879C7A84, 0x477D20B7,
        0x40420000] := by decide

/-- V26: 0x9DCCA8C5 first rounds to 2647435520; the sample is 499951872 / 2^31. -/
theorem test_noise_sample : noiseSample cfg 0x9DCCA8C5 = 0x3E6E6548 := by decide +kernel

/-- V31: the clap with decay 0.3 × 0.2 at 8000 Hz sounds up to age 163. -/
theorem test_lifetime_scaled :
    let bank := ((defaultBank cfg).set 1 0x3E99999A).set 38 0x3E4CCCCD
    expired cfg bank 8000 .clap (hit .clap 0 163) = false ∧ expired cfg bank 8000 .clap (hit .clap 0 164) = true := by
  decide +kernel

/-- V32: hat length 0.3 shortens the closed hat to 1440 samples at 48000 Hz and leaves the kick's 24960. -/
theorem test_lifetime_hat :
    let bank := (defaultBank cfg).set 4 0x3E99999A
    expired cfg bank 48000 .closedHat (hit .closedHat 0 1440) = false ∧
      expired cfg bank 48000 .closedHat (hit .closedHat 0 1441) = true ∧
      expired cfg bank 48000 .kick (hit .kick 0 24960) = false := by decide +kernel

/-- V36 up to `x1`: tone 0.5, raw -1, filter state 0.25 (binary32 values rounded by hand). -/
theorem test_tone_stage :
    toneState cfg (defaultBank cfg) .kick 0xBF800000 0x3E800000 = 0xBE19999C ∧
      toneBlend cfg (defaultBank cfg) .kick 0xBF800000 0xBE19999C = 0xBF133334 := by decide +kernel

/-- V40, tick 0: the tracker and `m1`. -/
theorem test_emphasis :
    punchAfter cfg 0 one = 0x3DE147AE ∧ emphasised cfg one 0x3DE147AE = 0x3FEC3958 := by decide +kernel

/-- V42: with a voice invoked the reset does not fire; without one it does. -/
theorem test_silence_reset :
    masterStep plain (defaultBank cfg) 0 true ⟨0, 0x3E800000, 0x3E800000⟩ = ⟨0, 0x3E2B851F, 0x3E2B851F⟩ ∧
      masterStep plain (defaultBank cfg) 0 false ⟨0, 0x3E800000, 0x3E800000⟩ = ⟨0, 0, 0⟩ := by decide +kernel

/-- V61: the phases 0.25 and 0.995 advanced by 441 Hz at 44100 Hz. -/
theorem test_oscillator_advance :
    (osc cfg 44100 0 0x43DC8000 { clearedVoice cfg with ph := #v[0x3E800000, 0, 0] }).2.ph[0] = 0x3E851EB8 := by
  decide +kernel

/-- V59: at 44100 Hz the crash ramp is below 1 at age 88 and 1 from 89. -/
theorem test_attack :
    F32.lt (att cfg (elapsed cfg 44100 (hit .crash 0 88)) cfg.rom.crAtt) one = true ∧
      att cfg (elapsed cfg 44100 (hit .crash 0 89)) cfg.rom.crAtt = one := by decide +kernel

/-- R141: the sums +12 and -24 scale frequencies by 2 and 1/4. -/
theorem test_tune_multiplier :
    tuneMulOf plain ((defaultBank cfg).set 0 0x41400000) .kick = 0x40000000 ∧
      tuneMulOf plain (((defaultBank cfg).set 0 0xC1400000).set 7 0xC1400000) .kick = 0x3E800000 := by decide +kernel

/-- R177: with every burst at 1 the envelope is limited to 1, before and after the second onset. -/
theorem test_clap_envelope :
    clapEnvelope plain 0 one = one ∧ clapEnvelope plain (F32.lit 12 1000) one = one := by decide +kernel

/-! ### Well-formed configurations -/

theorem plain_tanh_pack (x : Num32) (h : F32.isNaN x = false) :
    plain.tanh x = F32.pack x.msb (if F32.isZero x then 0 else oneMag) := by
  simp only [plain, h, Bool.false_eq_true, if_false]
  split
  · rename_i hz
    rw [← F32.pack_mag x, F32.msb_pack (F32.mag_lt x)]
    simp only [F32.isZero, beq_iff_eq] at hz
    rw [hz]
  · rfl

theorem plain_wf : ConfigWf plain :=
  { cfg_wf with
    tanh_odd := by
      intro x h
      have hz : F32.isZero (F32.neg x) = F32.isZero x := by simp [F32.isZero, mag_neg]
      rw [plain_tanh_pack x h, plain_tanh_pack _ (by rw [isNaN_neg]; exact h), msb_neg, hz,
        neg_pack (by split <;> decide)]
    tanh_mono := by
      intro x y h
      obtain ⟨hx, hy, hk⟩ := F32.le_iff.1 h
      rw [plain_tanh_pack x hx, plain_tanh_pack y hy, F32.le_iff]
      refine ⟨isNaN_pack (by split <;> decide), isNaN_pack (by split <;> decide), ?_⟩
      rw [key_pack (by split <;> decide), key_pack (by split <;> decide)]
      have h1 : (oneMag : Int) = 0x3F800000 := rfl
      simp only [F32.isZero, beq_iff_eq]
      unfold F32.key at hk
      cases hsx : x.msb <;> cases hsy : y.msb <;> simp only [hsx, hsy, if_true, if_false, Bool.false_eq_true] at hk ⊢ <;>
        split_ifs <;> omega
    tanh_zero := by decide
    tanh_bound := by
      intro x h
      rw [plain_tanh_pack x h]
      exact unitMagnitude_pack (by split <;> decide)
    tanh_nan := by
      intro x h
      have : plain.tanh x = F32.nan := by simp [plain, h]
      rw [this]; decide
    sin_bound := by
      intro x h
      have : plain.sin x = one := by simp [plain, F32.isNaN_of_finite h]
      rw [this]; decide
    exp_range := by
      intro x _ _
      simp only [plain]
      split <;> decide +kernel
    exp2_pos := by
      intro x _
      simp only [plain]
      split_ifs <;> decide +kernel
    sqrt_ge_one := fun _ _ => show F32.le one one = true by decide
    rom := romOf_wf fun _ => one }

theorem plain_expFalls : ExpFalls plain where
  at_zero := by
    intro x h
    rcases minusZero_of_mag (by simpa [F32.isZero] using h) with rfl | rfl <;> decide +kernel
  falls := by
    intro x y _ h _
    have hh : F32.le (F32.lit 1 2) one = true := by decide +kernel
    have h1 : F32.le one one = true := by decide
    have h2 : F32.le (F32.lit 1 2) (F32.lit 1 2) = true := by decide +kernel
    have h3 : F32.lt y (F32.litNeg 1 1) = true → F32.lt x (F32.litNeg 1 1) = true := by
      rw [F32.lt_iff, F32.lt_iff]
      have := F32.le_iff.1 h
      rintro ⟨-, hn, hk⟩
      exact ⟨this.1, hn, by omega⟩
    simp only [plain]
    split_ifs <;> first | assumption | (exfalso; tauto)

theorem plain_exp2Exact : Exp2Exact plain where
  at_zero := by
    intro x h
    rcases minusZero_of_mag (by simpa [F32.isZero] using h) with rfl | rfl <;> decide +kernel
  at_one := by decide +kernel
  at_minus_one := by decide +kernel
  at_two := by decide +kernel
  at_minus_two := by decide +kernel

theorem plain_tame : Tame plain where
  raw := fun k => by cases k <;> decide +kernel
  frequencies := (List.all_eq_true (p := fun f => F32.le f 0x49800000)).1 (by decide +kernel)
  tuning := by decide +kernel
  exp2 := by
    intro x _
    simp only [plain]
    split_ifs <;> decide +kernel
  tau := by decide +kernel

/-! ### Witnesses: a state and operands that meet the hypotheses of a statement, one for each of its clauses -/

/-- A prepared machine with a sounding kick in slot 0, a pending rim in slot 31 and a `RENDER 1` waiting on AUD. -/
def live : State :=
  { pool (fun i => if i = 0 then hit .kick 0 9 else if i = 31 then hit .rim 1 0 else clearedVoice cfg) with
    inbox := [⟨.aud, 0x60000001⟩] }

/-- A full pool whose ages are all 77 but for slot 9. -/
def full : State := pool fun i => if i = 9 then hit .kick 0 5000 else hit .kick 0 77

/-- A machine with a debug hit and a `SETP` of CTL behind the `SNAP` that AUD executes. -/
def overlapped : State :=
  { State.reset with dbgmask := 0x81, inbox := [⟨.ctl, 0x20000006⟩, ⟨.ctl, 0x3FC00000⟩] }

theorem witness_DecodeEncodeRoundTrip :
    (Instr.reserved 8 0).wellFormed = true ∧ (Instr.reserved 15 0xFFFFFFF).wellFormed = true ∧
      (Instr.trig .rim 0x800000 0x7FC00000).wellFormed = true := by decide

theorem witness_EncodeOfDecodedWords :
    decode 0x57FFFFFF 0xFFFFFFFF = .instr (.trig .rim (-1) 0xFFFFFFFF) ∧
      decode 0xFFFFFFFF 1 = .instr (.reserved 15 0xFFFFFFF) := by decide

theorem witness_StepRunsDecodedInstruction :
    fetch live = .command .aud 0x60000001 0 none none [] ∧ decode 0x60000001 0 = .instr (.render 1) := by
  exact ⟨rfl, by decide⟩

theorem witness_StepRunsEncodedCommand :
    (Instr.setp 6 one).wellFormed = true ∧
      overlapped.ctlHeld = none ∧ overlapped.audHeld = none ∧
      overlapped.inbox = (encode (.setp 6 0x3FC00000)).map (Arrival.mk .ctl) ++ [] ∧
      live.inbox = (encode (.render 1)).map (Arrival.mk .aud) ++ [] := by decide

theorem witness_IllegalWordChangesNothing :
    fetch { State.reset with inbox := [⟨.ctl, 0x28000000⟩, ⟨.ctl, one⟩] } = .command .ctl 0x28000000 one none none [] ∧
      decode 0x28000000 one = .illegal (.reservedBits 2) ∧
      fetch { State.reset with inbox := [⟨.aud, 0x80000000⟩] } = .command .aud 0x80000000 0 none none [] ∧
      decode 0x80000000 0 = .instr (.reserved 8 0) := by decide

theorem witness_HalfCommandWaits :
    ({ State.reset with audHeld := some 0x50000000 } : State).inbox = [] ∧
    (∃ s : State, cmdWords 0x57FFFFFF = 2 ∧ s.audHeld = none ∧ s.inbox = [⟨.aud, 0x57FFFFFF⟩]) ∧
    (∃ s : State, cmdWords 0x20000000 = 2 ∧ s.ctlHeld = none ∧ s.inbox = [⟨.ctl, 0x20000000⟩]) ∧
    (∃ s : State, cmdWords 0x10000000 = 2 ∧ s.audHeld = some 0x10000000 ∧ s.ctlHeld = none ∧
      s.inbox = ⟨.ctl, 0x77000000⟩ :: [] ∧ cmdWords 0x77000000 = 1 ∧ decode 0x77000000 0 = .instr (.dbghit .rim)) ∧
    (∃ s : State, cmdWords 0x2000002D = 2 ∧ s.ctlHeld = some 0x2000002D ∧ s.audHeld = none ∧
      s.inbox = ⟨.aud, 0x60000000⟩ :: [] ∧ cmdWords 0x60000000 = 1 ∧ decode 0x60000000 0 = .instr (.render 0)) ∧
    (∃ s : State, cmdWords 0x10000000 = 2 ∧ s.audHeld = some 0x10000000 ∧ s.inbox = ⟨.aud, 0⟩ :: [] ∧
      decode 0x10000000 0 = .instr (.prepare 0 0)) ∧
    ∃ s : State, cmdWords 0x2000002D = 2 ∧ s.ctlHeld = some 0x2000002D ∧ s.inbox = ⟨.ctl, 0xFFFFFFFF⟩ :: [] ∧
      decode 0x2000002D 0xFFFFFFFF = .instr (.setp 45 0xFFFFFFFF) :=
  ⟨rfl, ⟨{ State.reset with inbox := [⟨.aud, 0x57FFFFFF⟩] }, by decide⟩,
   ⟨{ State.reset with inbox := [⟨.ctl, 0x20000000⟩] }, by decide⟩,
   ⟨{ State.reset with audHeld := some 0x10000000, inbox := [⟨.ctl, 0x77000000⟩] }, by decide⟩,
   ⟨{ State.reset with ctlHeld := some 0x2000002D, inbox := [⟨.aud, 0x60000000⟩] }, by decide⟩,
   ⟨{ State.reset with audHeld := some 0x10000000, inbox := [⟨.aud, 0⟩] }, by decide⟩,
   ⟨{ State.reset with ctlHeld := some 0x2000002D, inbox := [⟨.ctl, 0xFFFFFFFF⟩] }, by decide⟩⟩

theorem witness_PrepareResetsVoicesAndBus : live.port = .aud := rfl

theorem witness_AudCommandsIgnoredOnCtl : ctl.port = .ctl := rfl

/-- The clauses of `SETP`: the highest id at both ends of its range, below it, above it; a NaN; ids 46 and 63. -/
theorem witness_SetpStoresClampedValue :
    (45#6).toNat < 46 ∧ F32.isNaN 0x80000000 = false ∧
      Within (cfg.pspec 45).lo 0x80000000 (cfg.pspec 45).hi ∧ Within (cfg.pspec 45).lo one (cfg.pspec 45).hi ∧
      F32.lt 0x80000001 (cfg.pspec 45).lo = true ∧ F32.lt 0xFF800000 (cfg.pspec 45).lo = true ∧
      F32.lt (cfg.pspec 45).hi 0x3F800001 = true ∧ F32.lt (cfg.pspec 45).hi 0x7F800000 = true ∧
      F32.isNaN 0x7F800001 = true ∧ 46 ≤ (46#6).toNat ∧ 46 ≤ (63#6).toNat ∧
      ∃ t, exec (.setp 45 0x7F800000) ctl = .next t :=
  ⟨by decide, by decide, by decide +kernel, by decide +kernel, by decide +kernel, by decide +kernel, by decide +kernel,
    by decide +kernel, by decide, by decide, by decide, _, rfl⟩

theorem witness_GetpAnswersShadowRegister :
    live.port = .aud ∧ ctl.port = .ctl ∧ (45#6).toNat < 46 ∧
      Within (cfg.pspec 45).lo live.psh[45] (cfg.pspec 45).hi := ⟨rfl, rfl, by decide, by decide +kernel⟩

theorem witness_WriteVisibleOnBothPorts :
    (45#6).toNat < 46 ∧ F32.isNaN 0x7F800000 = false ∧ (∃ t, exec (.setp 45 0x7F800000) ctl = .next t) ∧ (0#6) ≠ 45 :=
  ⟨by decide, by decide, ⟨_, rfl⟩, by decide⟩

theorem witness_DbghitSetsOneBit : ∃ t, exec (.dbghit .rim) ctl = .next t := ⟨_, rfl⟩

theorem witness_SnapCopiesAndDrains :
    ({ full with dbgmask := 0xFF } : State).port = .aud ∧ NoCtlNext { full with dbgmask := 0xFF } := ⟨rfl, rfl⟩

theorem witness_SnapPlaysHitsInTypeOrder :
    ({ State.reset with dbgmask := 0xFF } : State).port = .aud ∧ NoCtlNext { State.reset with dbgmask := 0xFF } ∧
      (∀ i : Fin 32, (voiceAt { State.reset with dbgmask := 0xFF }.voices i).active = false) ∧
      (pendingHits 0xFF).length = 8 := ⟨rfl, rfl, by decide, by decide⟩

/-- A `SNAP` that a `SETP` falls into: two banks, old and new. -/
theorem witness_SnapReadsEachRegisterAtOneMoment :
    overlapped.port = .aud ∧ ({ plain with snapAtomic := true } : Config Num32).snapAtomic = true ∧
      (overlapCtl { plain with snapAtomic := true } 0 overlapped.inbox.length 0 overlapped).banks =
        [overlapped.psh, overlapped.psh.set 6 0x3FC00000] := ⟨rfl, rfl, by decide +kernel⟩

theorem witness_SnapshotMayMixOldAndNew :
    plain.snapAtomic = false ∧
      ∀ id : Fin 46, (if id = 6 then 1 else 0) <
        (overlapCtl plain overlapped.snaps overlapped.inbox.length 0 overlapped).banks.length := by decide +kernel

theorem witness_TrigTakesLowestFreeSlot :
    live.port = .aud ∧ (voiceAt live.voices 1).active = false ∧
      (∀ j : Fin 32, j < 1 → (voiceAt live.voices j).active = true) ∧
      (voiceAt State.reset.voices 0).active = false := ⟨rfl, by decide +kernel, by decide +kernel, by decide⟩

theorem witness_TrigStealsOldestLowestSlot :
    full.port = .aud ∧ (∀ j : Fin 32, (voiceAt full.voices j).active = true) ∧
      (∀ j : Fin 32, (voiceAt full.voices j).sidx ≤ (voiceAt full.voices 9).sidx) ∧
      ∀ j : Fin 32, j < 9 → (voiceAt full.voices j).sidx < (voiceAt full.voices 9).sidx :=
  ⟨rfl, by decide +kernel, by decide +kernel, by decide +kernel⟩

/-- For the statements over every well-formed configuration. -/
theorem witness_DrawnPhasesAndSeedInRange : ConfigWf cfg := cfg_wf

theorem witness_AllocationClampsVelocityAndOffset :
    cfg.num = F32.format ∧
      F32.isNaN 0xFFFFFFFF = true ∧ F32.lt 0x80000001 0 = true ∧ F32.lt 0xFF800000 0 = true ∧
      F32.lt 0x3F800000 0x3F800001 = true ∧ F32.lt 0x3F800000 0x7F800000 = true ∧
      F32.inUnit 0 = true ∧ F32.inUnit 0x3F800000 = true ∧ F32.inUnit 0x80000000 = true ∧
      (0x800000#24).toInt ≤ 0 ∧ (0#24).toInt ≤ 0 ∧ ¬ (1#24).toInt ≤ 0 ∧ ¬ (0x7FFFFF#24).toInt ≤ 0 :=
  ⟨rfl, by decide⟩

theorem witness_LifeCycleOfOneTick :
    lifeState (clearedVoice cfg) = .free ∧ lifeState (hit .kick 1 0) = .pending ∧ lifeState (hit .kick 0xFFFFFFFF 0) = .pending ∧
      lifeState (hit .kick 0 0) = .sounding ∧ lifeState (hit .kick 0 0xFFFFFFFF) = .sounding := by decide

theorem witness_SoundingVoiceRetiresOrAdvances :
    lifeState (hit .kick 0 22933) = .sounding ∧ (hit .kick 0 22933).dtype = some .kick ∧
      cfg.num.lt (voiceLife cfg (defaultBank cfg) .kick) (elapsed cfg 44100 (hit .kick 0 22933)) = true ∧
      cfg.num.lt (voiceLife cfg (defaultBank cfg) .kick) (elapsed cfg 44100 (hit .kick 0 22932)) = false := by decide +kernel

theorem witness_CountdownDelaysVoice :
    (voiceAt live.voices 31).active = true ∧ 1 ≤ (voiceAt live.voices 31).sus.toNat ∧
      (voiceAt live.voices 0).active = true ∧ 0 ≤ (voiceAt live.voices 0).sus.toNat := by decide +kernel

theorem witness_ExpiryIsMonotoneInAge :
    cfg.num = F32.format ∧ (hit .kick 0 22933).sidx ≤ (hit .kick 0 0xFFFFFFFF).sidx ∧
      expired cfg (defaultBank cfg) 44100 .kick (hit .kick 0 22933) = true := ⟨rfl, by decide +kernel, by decide +kernel⟩

theorem witness_NoiseStaysNonZeroAndBounded : cfg.num = F32.format ∧ ({ cfg with ftz := true } : Config Num32).num = F32.format :=
  ⟨rfl, rfl⟩

/-- Both ends of the cycle, the frequencies 0 and the greatest; an infinite frequency, and any at rate 0; a NaN. -/
theorem witness_OscillatorKeepsPhaseInCycle :
    cfg.num = F32.format ∧ F32.le 0 0 = true ∧ F32.le 0 0x7F7FFFFF = true ∧ F32.le 0 0x7F800000 = true ∧
      F32.isPhase 0 = true ∧ F32.isPhase 0x3F7FFFFF = true ∧ F32.isNaN F32.nan = true ∧
      F32.isFinite (cfg.div 0 (cfg.ofNat (8000#32).toNat)) = true ∧
      F32.isFinite (cfg.div 0x7F7FFFFF (cfg.ofNat (8000#32).toNat)) = true ∧
      F32.isFinite (cfg.div 0x7F800000 (cfg.ofNat (8000#32).toNat)) = false ∧
      F32.isFinite (cfg.div one (cfg.ofNat (0#32).toNat)) = false := ⟨rfl, by decide +kernel⟩

theorem witness_ExponentialEnvelopeFalls :
    ConfigWf plain ∧ ExpFalls plain ∧ F32.isNaN 0 = false ∧ F32.le 0 0 = true ∧ F32.le 0 one = true ∧ F32.isZero 0 = true ∧
      F32.isFinite (plain.div one (F32.max plain.epsTau 0)) = true ∧
      F32.isFinite (plain.div one (F32.max plain.epsTau 0x7F800000)) = true :=
  ⟨plain_wf, plain_expFalls, by decide, by decide, by decide, by decide, by decide +kernel, by decide +kernel⟩

theorem witness_AttackRampRises :
    cfg.num = F32.format ∧ IsPositive one ∧ F32.isFinite one = true ∧ F32.le 0 one = true ∧ F32.le one one = true ∧
      F32.isFinite 0 = true ∧ F32.le 0 0 = true ∧ F32.isZero 0 = true ∧ F32.lt 0x3F7FFFFF one = true ∧
      F32.le 0 0x3F7FFFFF = true ∧ F32.le 0x3F7FFFFF one = true := ⟨rfl, by decide⟩

/-- The sums 0, 12, -12, 24 and -24 are met by banks. -/
theorem witness_TuneMultiplierAtWholeOctaves :
    ConfigWf plain ∧ Exp2Exact plain ∧
      [(0, 0), (0x41400000, 0), (0, 0xC1400000), (0x41400000, 0x41400000), (0xC1400000, 0xC1400000)].map
          (fun p : Num32 × Num32 =>
            let bank := ((defaultBank plain).set 0 p.1).set 42 p.2
            plain.add (regRead bank gTune) (regRead bank (dTune .rim))) =
        [0, F32.lit 12 1, F32.litNeg 12 1, F32.lit 24 1, F32.litNeg 24 1] ∧
      F32.isFinite 0 = true ∧ F32.isZero 0 = true :=
  ⟨plain_wf, plain_exp2Exact, by decide +kernel, by decide, by decide⟩

/-- Times 0, at each onset, and between them, at decay 1. -/
theorem witness_ClapEnvelopeLimited :
    ConfigWf plain ∧ IsPositive one ∧ F32.le 0 0 = true ∧ F32.le 0 (F32.lit 22 1000) = true ∧
      F32.isFinite (plain.div (F32.lit 22 1000) plain.epsTau) = true ∧
      F32.lt 0 (plain.mul (F32.lit 12 1000) one) = true ∧
      F32.le (plain.mul (F32.lit 12 1000) one) (F32.lit 12 1000) = true ∧
      F32.lt (F32.lit 12 1000) (plain.mul (F32.lit 22 1000) one) = true ∧
      F32.le (plain.mul (F32.lit 22 1000) one) (F32.lit 22 1000) = true :=
  ⟨plain_wf, by decide, by decide, by decide +kernel, by decide +kernel, by decide +kernel, by decide +kernel,
    by decide +kernel, by decide +kernel⟩

theorem witness_GeneratorSamplesBounded :
    ConfigWf plain ∧ (∀ k ∈ drumTypes, F32.isFinite (rawMax plain k) = true) ∧ F32.le 0 0 = true ∧
      F32.isFinite (plain.div 0 plain.epsTau) = true ∧ F32.lt 0 0x7F800000 = true ∧ F32.lt 0 one = true ∧ IsPositive one ∧
      (∀ j : Fin 3, F32.isPhase (hit .crash 0 0).ph[j] = true) ∧ F32.isZero 0 = true :=
  ⟨plain_wf, by decide +kernel, by decide, by decide +kernel, by decide, by decide, by decide, by decide +kernel, by decide⟩

/-- A clean record, and one whose first phase is a NaN. -/
theorem witness_VoiceSampleBounded :
    let bank := defaultBank plain
    let v := { hit .kick 0 9 with ph := #v[F32.nan, 0, 0] }
    let raw := fun v => (gen plain 8000 .kick (elapsed plain 8000 v) (tuneMulOf plain bank .kick) (decayOf plain bank .kick)
      (hatLenOf plain bank) v).1
    ConfigWf plain ∧ BankOk plain bank ∧ F32.inUnit (hit .kick 0 9).vel = true ∧ Moderate (raw (hit .kick 0 9)) ∧
      Moderate (hit .kick 0 9).tlp ∧ expired plain bank 8000 .kick v = false ∧ F32.isNaN (raw v) = true :=
  ⟨plain_wf, by decide +kernel, by decide +kernel, by decide +kernel, by decide +kernel, by decide +kernel,
    by decide +kernel⟩

theorem witness_RenderAppendsFrames : live.port = .aud ∧ live.sr = some 48000 := ⟨rfl, rfl⟩

theorem witness_RenderBeforePrepareRefused : State.reset.port = .aud ∧ State.reset.sr = none := ⟨rfl, rfl⟩

theorem witness_RenderSplits :
    (ready 8000).port = .aud ∧ (0#16).toNat + (0xFFFF#16).toNat < 2 ^ 16 ∧
      ∃ t, exec (.render 0) (ready 8000) = .next t := ⟨rfl, by decide, ⟨_, rfl⟩⟩

theorem witness_RenderAfterPrepareIsSilent :
    (ready 8000).port = .aud ∧ (ready 8000).sr = some 8000 ∧ BankOk cfg (ready 8000).snap ∧
      (∀ i : Fin 32, (voiceAt (ready 8000).voices i).active = false) ∧ (ready 8000).mb = ⟨0, 0, 0⟩ :=
  ⟨rfl, rfl, by decide +kernel, by decide, rfl⟩

/-- Two states that differ in what CTL writes. -/
theorem witness_RenderDoesNotSeeControl :
    let t : State := { live with dbgmask := 0xFF, psh := live.psh.set 6 0, port := .ctl }
    live.voices = t.voices ∧ live.snap = t.snap ∧ live.mb = t.mb ∧ live.frames = t.frames ∧ live.dbgmask ≠ t.dbgmask :=
  ⟨rfl, rfl, rfl, rfl, by decide⟩

theorem witness_DriveStageBounded :
    ConfigWf cfg ∧ F32.le 0x3F800000 0x3F800000 = true ∧ F32.le 0x3F800000 0x7F800000 = true ∧
      F32.isNaN 0x7F800000 = false ∧ F32.isNaN F32.nan = true :=
  ⟨cfg_wf, by decide, by decide, by decide, by decide⟩

theorem live_bounded : OutputBounded live :=
  ⟨by decide, by decide, fun f h => by simp [live, pool, ready, State.reset, State.powerOn] at h⟩

theorem live_clean : OutputClean live :=
  ⟨⟨by decide, by decide, by decide⟩, fun f h => by simp [live, pool, ready, State.reset, State.powerOn] at h⟩

theorem witness_OutputStaysBounded :
    ConfigWf plain ∧ BankOk plain live.snap ∧ OutputBounded live ∧ OutputClean live ∧
      (∀ (i : Fin 32) (y : Num32), (voiceStep plain live.snap 48000 (voiceAt live.voices i)).out = some y →
        UnitMagnitude y) ∧
      (voiceStep plain live.snap 48000 (voiceAt live.voices 0)).out.isSome = true := by
  refine ⟨plain_wf, by decide +kernel, live_bounded, live_clean, fun i y h => ?_, by decide +kernel⟩
  have all : ∀ i : Fin 32, (voiceStep plain live.snap 48000 (voiceAt live.voices i)).out.all
      (fun y => F32.le (F32.abs y) one) = true := by decide +kernel
  have := all i
  rw [h] at this
  exact this

/-- The reset fires on a still machine; it does not while a voice sounds, nor while `m2` is large. -/
theorem witness_SilenceResetFiresExactly :
    (∀ i : Fin 32, lifeState (voiceAt State.reset.voices i) ≠ .sounding) ∧
      plain.num.lt (plain.num.abs (mixedSample plain State.reset.snap State.reset.mb
        (monoSum plain (poolOuts plain State.reset.snap 8000 State.reset.voices)))) (plain.lit 1 10000000) = true ∧
      (∃ i : Fin 32, lifeState (voiceAt live.voices i) = .sounding) ∧
      plain.num.lt (plain.num.abs (mixedSample plain State.reset.snap ⟨one, 0, 0⟩
        (monoSum plain (poolOuts plain State.reset.snap 8000 State.reset.voices)))) (plain.lit 1 10000000) = false := by
  decide +kernel

theorem witness_TickAppendsFrameOfBus :
    0 < ({ cfg with nch := 1 } : Config Num32).nch ∧ 2 < ({ cfg with nch := 3 } : Config Num32).nch := by decide

theorem witness_StepKeepsInvariant : Inv live ∧ ∃ t, step live = .next t :=
  ⟨⟨by decide +kernel, by decide +kernel, by decide +kernel, by simp [RateOk, live, pool, ready], by
    simp [HeldOk, live, pool, ready, State.reset, State.powerOn], by
    simp [HeldOk, live, pool, ready, State.reset, State.powerOn]⟩, ⟨_, rfl⟩⟩

theorem witness_StepKeepsPhasesInCycle : Inv live ∧ PhasesOk live.voices ∧ ∃ t, step live = .next t :=
  ⟨witness_StepKeepsInvariant.1, by decide +kernel, ⟨_, rfl⟩⟩

/-- A machine with a sounding voice, and one without an active record whose bus still rings. -/
theorem witness_StepKeepsOutputBounded :
    let still : State := { ready 8000 with mb := ⟨one, one, one⟩, inbox := [⟨.aud, 0x60000000⟩] }
    (Inv live ∧ OutputBounded live ∧ ∃ t, step live = .next t) ∧
      Inv still ∧ OutputClean still ∧ (∀ i : Fin 32, (voiceAt still.voices i).active = false) ∧
      ∃ t, step still = .next t :=
  ⟨⟨witness_StepKeepsInvariant.1, live_bounded, _, rfl⟩,
   ⟨by decide +kernel, by decide +kernel, by decide +kernel, by simp [RateOk, ready],
    by simp [HeldOk, ready, State.reset, State.powerOn], by simp [HeldOk, ready, State.reset, State.powerOn]⟩,
   ⟨⟨by decide, by decide, by decide⟩, fun f h => by simp [ready, State.reset, State.powerOn] at h⟩,
   by decide, _, rfl⟩

theorem witness_EveryCommandKeepsSoundClean :
    ConfigWf plain ∧ Tame plain ∧ SoundClean plain live ∧ ∃ t, renderState plain 1 live = .next t :=
  ⟨plain_wf, plain_tame,
   ⟨⟨witness_StepKeepsInvariant.1.pool, by decide +kernel, by decide +kernel, witness_StepKeepsInvariant.1.rate,
     witness_StepKeepsInvariant.1.heldAud, witness_StepKeepsInvariant.1.heldCtl⟩, by decide +kernel, live_clean⟩,
   _, rfl⟩

theorem witness_OnlySnapWritesSnapshot :
    ∃ t, step { State.reset with inbox := [⟨.aud, 0x40000000⟩] } = .next t := ⟨_, rfl⟩

theorem witness_CtlTouchesOnlyItsState : ctl.port = .ctl := rfl

theorem witness_StreamsOnlyGrow : ∃ t, step { State.reset with inbox := [⟨.ctl, 0x30000001⟩] } = .next t := ⟨_, rfl⟩

end Sys2Proof.Tests
end

/-! ### The words of an instruction decode to it (30_encoding.md R82 to R100) -/

namespace Sys2Proof.Laws

/-- A field below the opcode of a first word is that field of its low 28 bits (R82). -/
theorem extractLsb'_header (op : BitVec 4) (low : BitVec 28) {start len : Nat} (h : start + len ≤ 28) :
    (header op low).extractLsb' start len = low.extractLsb' start len :=
  BitVec.extractLsb'_append_eq_of_add_le h

/-- Formats P and N (R84, R87): twelve bits above a 16-bit field. -/
theorem fields_twelve_sixteen (r : BitVec 12) (x : BitVec 16) :
    (r ++ x : BitVec 28).extractLsb' 16 12 = r ∧ (r ++ x : BitVec 28).extractLsb' 0 16 = x :=
  ⟨BitVec.extractLsb'_append_eq_left, BitVec.extractLsb'_append_eq_right⟩

/-- Format I (R85): 22 bits above a 6-bit field. -/
theorem fields_twentytwo_six (r : BitVec 22) (x : BitVec 6) :
    (r ++ x : BitVec 28).extractLsb' 6 22 = r ∧ (r ++ x : BitVec 28).extractLsb' 0 6 = x :=
  ⟨BitVec.extractLsb'_append_eq_left, BitVec.extractLsb'_append_eq_right⟩

/-- Formats T and D (R86, R89): a bit, a drum type and 24 bits. -/
theorem fields_one_three_twentyfour (r : BitVec 1) (x : BitVec 3) (y : BitVec 24) :
    (r ++ x ++ y : BitVec 28).extractLsb' 27 1 = r ∧ (r ++ x ++ y : BitVec 28).extractLsb' 24 3 = x ∧
      (r ++ x ++ y : BitVec 28).extractLsb' 0 24 = y :=
  ⟨(BitVec.extractLsb'_append_eq_of_le (by decide)).trans BitVec.extractLsb'_append_eq_left,
   (BitVec.extractLsb'_append_eq_of_le (by decide)).trans BitVec.extractLsb'_append_eq_right,
   BitVec.extractLsb'_append_eq_right⟩

@[simp] theorem drumOfCode_drumCode (dt : DrumType) : drumOfCode (drumCode dt) = dt := by
  cases dt <;> rfl

@[simp] theorem ifZero_zero {n : Nat} (w0 : Word) (i : Instr) : ifZero (0#n) w0 i = .instr i := by
  simp [ifZero]

theorem decode_reserved {op : BitVec 4} (hop : 8 ≤ op.toNat) (ignored : BitVec 28) (w1 : Word) :
    decode (header op ignored) w1 = .instr (.reserved op ignored) := by
  rw [decode, cmdOp_header, low_header]
  split
  case h_9 => rfl
  all_goals omega

/-- Each instruction is read back from its first word together with its second one, or with the word 0 that a fetch puts
in the place of a second word which the command does not have. -/
theorem decode_words_of_encode {i : Instr} {w0 : Word} {ws : List Word} (hi : i.wellFormed = true)
    (he : encode i = w0 :: ws) : decode w0 (ws.headD 0) = .instr i := by
  cases i <;> cases he
  case nop => rfl
  case snap => rfl
  case reserved op ignored => exact decode_reserved (by simpa [Instr.wellFormed] using hi) ignored 0
  all_goals
    simp [decode, cmdOp_header, extractLsb'_header, fields_twelve_sixteen, fields_twentytwo_six,
      fields_one_three_twentyfour]

/-- `EncodedLength` for every instruction. -/
theorem encodedLength (i : Instr) : EncodedLength.Statement i := by
  cases i with
  | nop => exact EncodedLength.nop
  | prepare mb sr => exact EncodedLength.prepare mb sr
  | setp pid val => exact EncodedLength.setp pid val
  | getp pid => exact EncodedLength.getp pid
  | snap => exact EncodedLength.snap
  | trig dt off vel => exact EncodedLength.trig dt off vel
  | render n => exact EncodedLength.render n
  | dbghit dt => exact EncodedLength.dbghit dt
  | reserved op ignored => exact EncodedLength.reserved op ignored

end Sys2Proof.Laws

/-! ### A step runs the command that a fetch completes (20_memory.md R65, R68) -/

namespace Sys2Proof.Machine

/-- A command has one word or two (30_encoding.md R81). -/
theorem cmdWords_eq_one_or_two (w : Word) : cmdWords w = 1 ∨ cmdWords w = 2 := by
  unfold cmdWords
  split <;> simp

theorem fetchFrom_ctl_one {w : Word} (h : cmdWords w ≠ 2) (aud : Option Word) (rest : List Arrival) :
    fetchFrom aud none (⟨.ctl, w⟩ :: rest) = .command .ctl w 0 aud none rest := by
  simp [fetchFrom, h]

theorem fetchFrom_ctl_two {w : Word} (h : cmdWords w = 2) (w1 : Word) (aud : Option Word) (rest : List Arrival) :
    fetchFrom aud none (⟨.ctl, w⟩ :: ⟨.ctl, w1⟩ :: rest) = .command .ctl w w1 aud none rest := by
  simp [fetchFrom, h]

/-- As many words as the first one announces are one word, or a word and its operand. -/
theorem words_of_length {w0 : Word} {ws : List Word} (h : ws.length + 1 = cmdWords w0) :
    (cmdWords w0 ≠ 2 ∧ ws = []) ∨ (cmdWords w0 = 2 ∧ ∃ w1, ws = [w1]) := by
  rcases cmdWords_eq_one_or_two w0 with h1 | h2
  · exact .inl ⟨by omega, List.length_eq_zero_iff.1 (by omega)⟩
  · exact .inr ⟨h2, List.length_eq_one_iff.1 (by omega)⟩

/-- The words of one command, first in the inbox for AUD while AUD holds nothing, are fetched, whatever CTL holds. -/
theorem fetchFrom_aud_words {w0 : Word} {ws : List Word} (h : ws.length + 1 = cmdWords w0) (ctl : Option Word)
    (rest : List Arrival) :
    fetchFrom none ctl ((w0 :: ws).map (Arrival.mk .aud) ++ rest) = .command .aud w0 (ws.headD 0) none ctl rest := by
  obtain ⟨h1, rfl⟩ | ⟨h2, w1, rfl⟩ := words_of_length h
  · exact fetchFrom_aud_one h1 ctl rest
  · exact fetchFrom_aud_two h2 w1 ctl rest

/-- The words of one command, first in the inbox for CTL while CTL holds nothing, are fetched, whatever AUD holds. -/
theorem fetchFrom_ctl_words {w0 : Word} {ws : List Word} (h : ws.length + 1 = cmdWords w0) (aud : Option Word)
    (rest : List Arrival) :
    fetchFrom aud none ((w0 :: ws).map (Arrival.mk .ctl) ++ rest) = .command .ctl w0 (ws.headD 0) aud none rest := by
  obtain ⟨h1, rfl⟩ | ⟨h2, w1, rfl⟩ := words_of_length h
  · exact fetchFrom_ctl_one h1 aud rest
  · exact fetchFrom_ctl_two h2 w1 aud rest

/-- A step on a complete command executes what it decodes to, after its words are taken. -/
theorem step_of_fetch {s : State} {p : Port} {w0 w1 : Word} {aud ctl : Option Word} {rest : List Arrival}
    (hf : fetch s = .command p w0 w1 aud ctl rest) :
    step s = runDecoded (decode w0 w1) (takeWords p aud ctl rest s) := by
  rw [step, hf]
  rfl

/-- Settles O7: `step_of_fetch` where the decoder answers an instruction. -/
theorem stepRunsDecodedInstruction : Obligations.StepRunsDecodedInstruction := by
  intro s p w0 w1 aud ctl rest i hf hd
  rw [step_of_fetch hf, hd]
  rfl

/-- Settles O8: the encoder writes as many words as the first announces, so they are fetched as one command, and they
decode to the instruction. -/
theorem stepRunsEncodedCommand : Obligations.StepRunsEncodedCommand := by
  intro s i rest hi
  obtain ⟨w0, ws, he, hlen⟩ := Laws.encodedLength i hi
  have hd : decode w0 (ws.headD 0) = .instr i := Laws.decode_words_of_encode hi he
  rw [he]
  refine ⟨fun hheld hin => ?_, fun hheld hin => ?_⟩
  · have hf : fetch s = .command .aud w0 (ws.headD 0) none s.ctlHeld rest := by
      rw [fetch, hheld, hin, fetchFrom_aud_words hlen]
    rw [stepRunsDecodedInstruction s _ _ _ _ _ _ i hf hd, ← hheld]
  · have hf : fetch s = .command .ctl w0 (ws.headD 0) s.audHeld none rest := by
      rw [fetch, hheld, hin, fetchFrom_ctl_words hlen]
    rw [stepRunsDecodedInstruction s _ _ _ _ _ _ i hf hd, ← hheld]

end Sys2Proof.Machine

/-! ### Clamping a value to a range (00_scope.md R10) -/

namespace Sys2Proof

theorem F32.lt_eq_false_of_le {x y : Num32} (h : F32.le x y = true) : F32.lt y x = false := by
  obtain ⟨-, -, hk⟩ := F32.le_iff.1 h
  rw [Bool.eq_false_iff, ne_eq, F32.lt_iff]
  omega

theorem F32.le_of_lt {x y : Num32} (h : F32.lt x y = true) : F32.le x y = true := by
  obtain ⟨hx, hy, hk⟩ := F32.lt_iff.1 h
  exact F32.le_iff.2 ⟨hx, hy, hk.le⟩

/-- Two numbers are in order one way or strictly in order the other way. -/
theorem F32.le_or_lt {x y : Num32} (hx : F32.isNaN x = false) (hy : F32.isNaN y = false) :
    F32.le x y = true ∨ F32.lt y x = true := by
  rw [F32.le_iff, F32.lt_iff]
  simp only [hx, hy, true_and]
  omega

/-- `min` keeps its first operand unless the second is below it. -/
theorem F32.min_of_le {x y : Num32} (h : F32.le x y = true) : F32.min x y = x := by
  obtain ⟨hx, hy, -⟩ := F32.le_iff.1 h
  simp [F32.min, hx, hy, F32.lt_eq_false_of_le h]

theorem F32.min_of_lt {x y : Num32} (h : F32.lt y x = true) : F32.min x y = y := by
  obtain ⟨hy, hx, -⟩ := F32.lt_iff.1 h
  simp [F32.min, hx, hy, h]

/-- `max` keeps its second operand unless the first is above it. -/
theorem F32.max_of_le {x y : Num32} (h : F32.le x y = true) : F32.max x y = y := by
  obtain ⟨hx, hy, -⟩ := F32.le_iff.1 h
  simp [F32.max, hx, hy, F32.lt_eq_false_of_le h]

theorem F32.max_of_lt {x y : Num32} (h : F32.lt y x = true) : F32.max x y = x := by
  obtain ⟨hy, hx, -⟩ := F32.lt_iff.1 h
  simp [F32.max, hx, hy, h]

end Sys2Proof

namespace Sys2Proof.Machine

/-- Every value is a NaN, below the range, above it, or in it. -/
theorem nan_or_below_or_above_or_within {lo hi : Num32} (h : F32.le lo hi = true) (x : Num32) :
    F32.isNaN x = true ∨ F32.lt x lo = true ∨ F32.lt hi x = true ∨ Within lo x hi := by
  obtain ⟨hlo, hhi, -⟩ := F32.le_iff.1 h
  cases hx : F32.isNaN x with
  | true => exact .inl rfl
  | false =>
    rcases F32.le_or_lt hlo hx with hl | hl
    · rcases F32.le_or_lt hx hhi with hh | hh
      · exact .inr (.inr (.inr ⟨hl, hh⟩))
      · exact .inr (.inr (.inl hh))
    · exact .inr (.inl hl)

section
variable {c : Config Num32} (hc : c.num = F32.format) {lo hi x : Num32}
include hc

theorem clamp_of_nan (hx : F32.isNaN x = true) : c.clamp x lo hi = lo := by
  rw [clamp_eq hc, if_pos hx]

theorem clamp_of_not_nan (hx : F32.isNaN x = false) : c.clamp x lo hi = F32.max lo (F32.min x hi) := by
  simp [clamp_eq hc, hx]

theorem clamp_of_below (h : F32.le lo hi = true) (hx : F32.lt x lo = true) : c.clamp x lo hi = lo := by
  have hxlo : F32.le x lo = true := F32.le_of_lt hx
  rw [clamp_of_not_nan hc (F32.lt_iff.1 hx).1, F32.min_of_le (F32.le_trans hxlo h), F32.max_of_lt hx]

theorem clamp_of_above (h : F32.le lo hi = true) (hx : F32.lt hi x = true) : c.clamp x lo hi = hi := by
  rw [clamp_of_not_nan hc (F32.lt_iff.1 hx).2.1, F32.min_of_lt hx, F32.max_of_le h]

theorem clamp_of_within (hx : Within lo x hi) : c.clamp x lo hi = x := by
  obtain ⟨hlo, hhi⟩ := hx
  rw [clamp_of_not_nan hc (F32.le_iff.1 hlo).2.1, F32.min_of_le hhi, F32.max_of_le hlo]

end

/-! ### The velocity and the countdown of an allocation (40_voice_pool.md R113) -/

theorem inUnit_iff_within {x : Num32} : F32.inUnit x = true ↔ Within 0 x one := by
  simp [F32.inUnit, Within, one]

theorem le_zero_one : F32.le 0 one = true := by decide

section
variable {c : Config Num32} (hc : c.num = F32.format) {vel : Num32}
include hc

/-- But for the operand -0, whose zero may lose its sign (log 11), a velocity is clamped to [0, 1]. -/
theorem velocityOf_eq_clamp (h : vel ≠ 0x80000000) : velocityOf c vel = c.clamp vel 0 one := by
  have hm : c.num.isMinusZero vel = false := by
    rw [hc]
    exact beq_eq_false_iff_ne.2 h
  simp [velocityOf, hm, zero_eq hc, one_eq hc]

/-- The operand -0 is stored as one of the two zeros. -/
theorem velocityOf_minusZero : velocityOf c 0x80000000 = 0 ∨ velocityOf c 0x80000000 = 0x80000000 := by
  have hw : Within 0 0x80000000 one := by decide
  rw [velocityOf, zero_eq hc, one_eq hc, clamp_of_within hc hw]
  split
  · exact .inl rfl
  · exact .inr rfl

theorem velocityOf_of_nan (h : F32.isNaN vel = true) : velocityOf c vel = 0 := by
  have hne : vel ≠ 0x80000000 := by rintro rfl; exact absurd h (by decide)
  rw [velocityOf_eq_clamp hc hne, clamp_of_nan hc h]

theorem velocityOf_of_neg (h : F32.lt vel 0 = true) : velocityOf c vel = 0 := by
  have hne : vel ≠ 0x80000000 := by rintro rfl; exact absurd h (by decide)
  rw [velocityOf_eq_clamp hc hne, clamp_of_below hc le_zero_one h]

theorem velocityOf_of_one_lt (h : F32.lt one vel = true) : velocityOf c vel = one := by
  have hne : vel ≠ 0x80000000 := by rintro rfl; exact absurd h (by decide)
  rw [velocityOf_eq_clamp hc hne, clamp_of_above hc le_zero_one h]

theorem velocityOf_of_inUnit (h : F32.inUnit vel = true) (hne : vel ≠ 0x80000000) : velocityOf c vel = vel := by
  rw [velocityOf_eq_clamp hc hne, clamp_of_within hc (inUnit_iff_within.1 h)]

/-- Whatever the operand, the velocity stored lies in [0, 1] (10_state.md R24). -/
theorem inUnit_velocityOf (vel : Num32) : F32.inUnit (velocityOf c vel) = true := by
  rcases nan_or_below_or_above_or_within le_zero_one vel with hn | hneg | hgt | hin
  · rw [velocityOf_of_nan hc hn]; decide
  · rw [velocityOf_of_neg hc hneg]; decide
  · rw [velocityOf_of_one_lt hc hgt]; decide
  · by_cases hz : vel = 0x80000000
    · subst hz
      rcases velocityOf_minusZero hc with hplus | hminus
      · rw [hplus]; decide
      · rw [hminus]; decide
    · have hu : F32.inUnit vel = true := inUnit_iff_within.2 hin
      rwa [velocityOf_of_inUnit hc hu hz]

end

theorem offsetOf_lt (off : BitVec 24) : offsetOf off < 2 ^ 23 := BitVec.toInt_lt

/-- The countdown is `max(0, off)`: no offset of 24 bits is cut off by its 32 bits. -/
theorem toNat_countdownOf {off : Int} (h : off < 2 ^ 32) : ((countdownOf off).toNat : Int) = max 0 off := by
  rw [countdownOf, BitVec.toNat_ofNat]
  omega

theorem countdownOf_eq_zero_iff {off : Int} (h : off < 2 ^ 32) : countdownOf off = 0 ↔ off ≤ 0 := by
  have ht := toNat_countdownOf h
  rw [← BitVec.toNat_inj]
  change (countdownOf off).toNat = 0 ↔ off ≤ 0
  omega

/-- A new record sounds at once when its offset is not positive (10_state.md R31). -/
theorem lifeState_newVoice {N : Type} (c : Config N) (d : Draw N) (dt : DrumType) (vel : N) {off : Int}
    (h : off < 2 ^ 32) :
    lifeState (newVoice c d dt vel off) = if off ≤ 0 then .sounding else .pending := by
  simp only [lifeState, newVoice, if_true, countdownOf_eq_zero_iff h]

/-- Settles O27: the velocity by the four cases of the clamp, the countdown because a 24-bit offset fits its 32 bits. -/
theorem allocationClampsVelocityAndOffset : Obligations.AllocationClampsVelocityAndOffset := by
  intro c d dt vel off hc
  have hoff : offsetOf off < 2 ^ 23 := offsetOf_lt off
  have hoff32 : offsetOf off < 2 ^ 32 := by omega
  have hsus : ((countdownOf (offsetOf off)).toNat : Int) = max 0 (offsetOf off) := toNat_countdownOf hoff32
  exact ⟨⟨inUnit_velocityOf hc vel, velocityOf_of_nan hc, velocityOf_of_neg hc, velocityOf_of_one_lt hc,
      velocityOf_of_inUnit hc⟩,
    hsus, show (countdownOf (offsetOf off)).toNat < 2 ^ 23 by omega, lifeState_newVoice c d dt vel hoff32⟩

end Sys2Proof.Machine

/-! ### What a step can do (00_scope.md R13, 60_exceptions.md R245) -/

namespace Sys2Proof.Machine

/-- What executing one command can make of the state whose words it was taken from. -/
inductive CommandEffect (c : Config Num32) (s : State) : State → Prop where
  | nothing : CommandEffect c s s
  | prepare (mb : BitVec 16) (sr : BitVec 32) : CommandEffect c s (prepareState c mb sr s)
  | setp (pid : BitVec 6) (val : Word) : CommandEffect c s (setParam c pid val s)
  | getp (p : Port) (pid : BitVec 6) : CommandEffect c s (getParam c p pid s)
  | snap : CommandEffect c s (snapState c s)
  | trig (dt : DrumType) (vel : Num32) (off : Int) : CommandEffect c s (allocate c dt vel off s)
  | render (sr : BitVec 32) (n : Nat) (h : s.sr = some sr) : CommandEffect c s (ticks c sr n s)
  | dbghit (dt : DrumType) : CommandEffect c s (requestHit dt s)

/-- A command of AUD that answers a state either had its effect or was ignored on CTL (30_encoding.md R99). -/
theorem onAud_eq_next {s t : State} {e : Host.Outcome State Fault Refusal} (h : onAud s e = .next t) :
    t = s ∨ e = .next t := by
  cases hp : s.port with
  | aud => exact .inr (onAud_of_aud hp e ▸ h)
  | ctl =>
    rw [onAud_of_ctl hp] at h
    cases h
    exact .inl rfl

theorem renderState_eq_next {c : Config Num32} {n : Nat} {s t : State} (h : renderState c n s = .next t) :
    ∃ sr, s.sr = some sr ∧ t = ticks c sr n s := by
  unfold renderState at h
  split at h
  · cases h
  · rename_i sr hsr
    cases h
    exact ⟨sr, hsr, rfl⟩

theorem exec_effect {i : Instr} {s t : State} (h : exec i s = .next t) : CommandEffect cfg s t := by
  cases i with
  | nop => cases h; exact .nothing
  | prepare mb sr =>
    obtain rfl | he := onAud_eq_next h
    · exact .nothing
    · cases he; exact .prepare mb sr
  | setp pid val => cases h; exact .setp pid val
  | getp pid => cases h; exact .getp s.port pid
  | snap =>
    obtain rfl | he := onAud_eq_next h
    · exact .nothing
    · cases he; exact .snap
  | trig dt off vel =>
    obtain rfl | he := onAud_eq_next h
    · exact .nothing
    · cases he; exact .trig dt _ _
  | render n =>
    obtain rfl | he := onAud_eq_next h
    · exact .nothing
    · obtain ⟨sr, hsr, rfl⟩ := renderState_eq_next he
      exact .render sr _ hsr
  | dbghit dt => cases h; exact .dbghit dt
  | reserved op ignored => cases h; exact .nothing

theorem runDecoded_effect {d : Decoded} {s t : State} (h : runDecoded d s = .next t) : CommandEffect cfg s t := by
  cases d with
  | instr i => exact exec_effect h
  | illegal why => cases h; exact .nothing

/-- What a fetch leaves in AUD's hands. -/
def Fetched.audLeft : Fetched → Option Word
  | .waiting aud _ => aud
  | .command _ _ _ aud _ _ => aud

/-- What a fetch leaves in CTL's hands. -/
def Fetched.ctlLeft : Fetched → Option Word
  | .waiting _ ctl => ctl
  | .command _ _ _ _ ctl _ => ctl

/-- A step takes words from the ports and then has the effect of one command at most. -/
theorem step_effect {s t : State} (h : step s = .next t) :
    ∃ p rest, CommandEffect cfg (takeWords p (fetch s).audLeft (fetch s).ctlLeft rest s) t := by
  unfold step at h
  cases hf : fetch s with
  | waiting aud ctl =>
    rw [hf] at h
    cases h
    exact ⟨s.port, [], .nothing⟩
  | command p w0 w1 aud ctl rest =>
    rw [hf] at h
    exact ⟨p, rest, runDecoded_effect h⟩

theorem heldOk_none : HeldOk none := by simp [HeldOk]

theorem heldOk_some {w : Word} (h : cmdWords w = 2) : HeldOk (some w) := by simpa [HeldOk] using h

/-- Only first words of two-word commands are left waiting (20_memory.md R65). -/
theorem fetchFrom_heldOk {aud ctl : Option Word} (l : List Arrival) (haud : HeldOk aud) (hctl : HeldOk ctl) :
    HeldOk (fetchFrom aud ctl l).audLeft ∧ HeldOk (fetchFrom aud ctl l).ctlLeft := by
  induction l generalizing aud ctl with
  | nil => exact ⟨haud, hctl⟩
  | cons a rest ih =>
    unfold fetchFrom
    split
    · split
      · exact ⟨heldOk_none, hctl⟩
      · split
        · exact ih (heldOk_some ‹_›) hctl
        · exact ⟨heldOk_none, hctl⟩
    · split
      · exact ⟨haud, heldOk_none⟩
      · split
        · exact ih haud (heldOk_some ‹_›)
        · exact ⟨haud, heldOk_none⟩

/-! ### What falls inside a SNAP (20_memory.md R70; log 14) -/

/-- Taking a CTL command inside a SNAP empties CTL's hands and shortens the inbox. -/
theorem nextCtl_eq_some {s s' : State} {w0 w1 : Word} (h : nextCtl s = some (w0, w1, s')) :
    ∃ rest, s' = takeWords s.port s.audHeld none rest s := by
  unfold nextCtl at h
  split at h
  · cases h
  · split at h
    · cases h
    · split at h
      · cases h; exact ⟨_, rfl⟩
      · rename_i hheld
        split at h
        · split at h
          · cases h
          · split at h
            · cases h
            · cases h; exact ⟨_, by rw [← hheld]; rfl⟩
        · cases h; exact ⟨_, by rw [← hheld]; rfl⟩

/-- What every CTL command keeps holds after those that fall inside a SNAP, and every bank that its reads can meet is the
shadow bank of a state in which it holds. -/
theorem overlapCtl_keeps {Q : State → Prop} {c : Config Num32}
    (htake : ∀ (s : State) (rest : List Arrival), Q s → Q (takeWords s.port s.audHeld none rest s))
    (hctl : ∀ (s : State) (d : Decoded), Q s → Q (ctlEffect c d s)) (n fuel j : Nat) {s : State} (hs : Q s) :
    Q (overlapCtl c n fuel j s).after ∧ ∀ b ∈ (overlapCtl c n fuel j s).banks, ∃ u, Q u ∧ b = u.psh := by
  have here : Q s ∧ ∀ b ∈ [s.psh], ∃ u, Q u ∧ b = u.psh := ⟨hs, by simpa using ⟨s, hs, rfl⟩⟩
  induction fuel generalizing j s with
  | zero => exact here
  | succ fuel ih =>
    unfold overlapCtl
    split
    · exact here
    · rename_i w0 w1 s' hnext
      obtain ⟨rest, rfl⟩ := nextCtl_eq_some hnext
      have hq := hctl _ (decode w0 w1) (htake s rest hs)
      split
      · obtain ⟨hafter, hbanks⟩ := ih (j + 1) hq ⟨hq, by simpa using ⟨_, hq, rfl⟩⟩
        exact ⟨hafter, List.forall_mem_cons.2 ⟨⟨s, hs, rfl⟩, hbanks⟩⟩
      · exact here

/-- A read of a SNAP meets one of the banks, or the one given for none. -/
theorem bankAt_mem (banks : List (Bank Num32)) (k : Nat) (now : Bank Num32) :
    bankAt banks k now ∈ now :: banks := by
  unfold bankAt
  split
  · simp
  · rw [List.getD_eq_getElem?_getD]
    cases h : banks[k % banks.length]? with
    | none => simp
    | some b => exact List.mem_cons_of_mem _ (List.mem_of_getElem? h)

theorem regRead_latched (c : Config Num32) (n : Nat) (banks : List (Bank Num32)) (now : Bank Num32) (id : Fin 46) :
    ∃ b ∈ now :: banks, regRead (latched c n banks now) id = regRead b id :=
  ⟨bankAt banks (c.snapRead n (if c.snapAtomic then 46 else id.val)) now, bankAt_mem _ _ _, by simp [latched, regRead]⟩

/-! ### The voice file under the operations -/

/-- What holds of every record and of every record that an allocation writes holds of every record after it. -/
theorem forall_voiceAt_allocate {P : Voice Num32 → Prop} {c : Config Num32} {dt : DrumType} {vel : Num32} {off : Int}
    {s : State} (hnew : P (newVoice c (c.draw s.draws) dt vel off)) (h : ∀ i, P (voiceAt s.voices i)) (i : Fin 32) :
    P (voiceAt (allocate c dt vel off s).voices i) := by
  rw [allocate_eq, voiceAt_set]
  split
  · exact hnew
  · exact h i

theorem forall_voiceAt_playHits {P : Voice Num32 → Prop} {c : Config Num32}
    (hnew : ∀ n dt vel off, P (newVoice c (c.draw n) dt vel off)) (hits : List DrumType) {s : State}
    (h : ∀ i, P (voiceAt s.voices i)) (i : Fin 32) : P (voiceAt (playHits c hits s).voices i) := by
  induction hits generalizing s with
  | nil => exact h i
  | cons k hits ih => exact ih (forall_voiceAt_allocate (hnew _ _ _ _) h)

theorem voiceAt_clearedVoices {N : Type} (c : Config N) (i : Fin 32) : voiceAt (clearedVoices c) i = clearedVoice c := by
  simp [voiceAt, clearedVoices]

theorem regRead_defaultBank {N : Type} (c : Config N) (id : Fin 46) :
    regRead (defaultBank c) id = (c.pspec id).dflt := by
  simp [regRead, defaultBank]

/-! ### PREPARE and the state after reset (10_state.md R51, R52) -/

/-- A cleared record of a binary32 configuration, written out. -/
theorem clearedVoice_eq {c : Config Num32} (h : c.num = F32.format) :
    clearedVoice c = ⟨false, none, 0, 0, 0, #v[0, 0, 0], 1, 0⟩ := by
  rw [clearedVoice, zero_eq h]

theorem clearedBus_eq {c : Config Num32} (h : c.num = F32.format) : clearedBus c = ⟨0, 0, 0⟩ := by
  rw [clearedBus, zero_eq h]

theorem toNat_rateOf (sr : BitVec 32) : (rateOf sr).toNat = max 8000 sr.toNat := by
  unfold rateOf
  split
  · change 8000 = _; omega
  · omega

theorem rateOf_eq_max (sr : BitVec 32) : rateOf sr = BitVec.ofNat 32 (max 8000 sr.toNat) := by
  rw [← toNat_rateOf, BitVec.ofNat_toNat, BitVec.setWidth_eq]

/-- Settles O13: the effect of `PREPARE`, its cleared records, bus and rate written out. -/
theorem prepareResetsVoicesAndBus : Obligations.PrepareResetsVoicesAndBus := by
  intro s mb sr hport
  have hexec : exec (.prepare mb sr) s = .next (prepareState cfg mb sr s) := onAud_of_aud hport _
  rw [hexec, prepareState, clearedVoices, clearedVoice_eq rfl, clearedBus_eq rfl, rateOf_eq_max]

/-- Settles O52: the power-on state under this machine's configuration, field by field. -/
theorem resetState : Obligations.ResetState :=
  ⟨fun i => (voiceAt_clearedVoices cfg i).trans (clearedVoice_eq rfl),
   fun id => ⟨regRead_defaultBank cfg id, regRead_defaultBank cfg id⟩,
   rfl, rfl, rfl, clearedBus_eq rfl, rfl, rfl, rfl⟩

/-! ### The streams only grow (10_state.md R48) -/

/-- The frames and both response streams of `s` are prefixes of those of `t`. -/
structure StreamsExtend (s t : State) : Prop where
  frames : s.frames <+: t.frames
  audResp : s.audResp <+: t.audResp
  ctlResp : s.ctlResp <+: t.ctlResp

theorem StreamsExtend.of_eq {s t : State} (hframes : t.frames = s.frames) (haud : t.audResp = s.audResp)
    (hctl : t.ctlResp = s.ctlResp) : StreamsExtend s t :=
  ⟨hframes ▸ List.prefix_rfl, haud ▸ List.prefix_rfl, hctl ▸ List.prefix_rfl⟩

theorem StreamsExtend.trans {s t u : State} (h : StreamsExtend s t) (h' : StreamsExtend t u) : StreamsExtend s u :=
  ⟨h.frames.trans h'.frames, h.audResp.trans h'.audResp, h.ctlResp.trans h'.ctlResp⟩

theorem streamsExtend_setParam (c : Config Num32) (pid : BitVec 6) (val : Word) (s : State) :
    StreamsExtend s (setParam c pid val s) := by
  rw [setParam_frame]
  exact .of_eq rfl rfl rfl

theorem streamsExtend_respond (p : Port) (w : Word) (s : State) : StreamsExtend s (respond p w s) := by
  cases p with
  | aud => exact ⟨List.prefix_rfl, List.prefix_append _ _, List.prefix_rfl⟩
  | ctl => exact ⟨List.prefix_rfl, List.prefix_rfl, List.prefix_append _ _⟩

theorem streamsExtend_ctlEffect (c : Config Num32) (d : Decoded) (s : State) : StreamsExtend s (ctlEffect c d s) := by
  cases d with
  | illegal why => exact .of_eq rfl rfl rfl
  | instr i =>
    cases i with
    | setp pid val => exact streamsExtend_setParam c pid val s
    | getp pid => exact streamsExtend_respond .ctl _ s
    | _ => exact .of_eq rfl rfl rfl

theorem streamsExtend_playHits (c : Config Num32) (hits : List DrumType) (s : State) :
    StreamsExtend s (playHits c hits s) := by
  rw [playHits_frame]
  exact .of_eq rfl rfl rfl

theorem streamsExtend_latchSnap (b : Bank Num32) (s : State) : StreamsExtend s (countSnap (latchSnap b s)) :=
  .of_eq rfl rfl rfl

theorem streamsExtend_drainHits (c : Config Num32) (s : State) : StreamsExtend s (drainHits c s) :=
  StreamsExtend.trans (t := setMask 0 s) (.of_eq rfl rfl rfl) (streamsExtend_playHits c _ _)

theorem streamsExtend_snapState (c : Config Num32) (s : State) : StreamsExtend s (snapState c s) := by
  obtain ⟨hafter, -⟩ := overlapCtl_keeps (Q := StreamsExtend s) (c := c)
    (fun u rest h => h.trans (.of_eq rfl rfl rfl)) (fun u d h => h.trans (streamsExtend_ctlEffect c d u))
    s.snaps s.inbox.length 0 (.of_eq rfl rfl rfl)
  exact (hafter.trans (streamsExtend_latchSnap _ _)).trans (streamsExtend_drainHits c _)

theorem streamsExtend_tick (c : Config Num32) (sr : BitVec 32) (s : State) : StreamsExtend s (tick c sr s) := by
  refine ⟨?_, ?_, ?_⟩
  · rw [tick_frames]; exact List.prefix_append _ _
  · rw [tick_audResp]
  · rw [tick_ctlResp]

theorem streamsExtend_ticks (c : Config Num32) (sr : BitVec 32) (n : Nat) (s : State) :
    StreamsExtend s (ticks c sr n s) := by
  induction n generalizing s with
  | zero => exact .of_eq rfl rfl rfl
  | succ n ih => exact (streamsExtend_tick c sr s).trans (ih (tick c sr s))

theorem CommandEffect.streamsExtend {c : Config Num32} {s t : State} (h : CommandEffect c s t) : StreamsExtend s t := by
  cases h with
  | setp pid val => exact streamsExtend_setParam c pid val s
  | getp p pid => exact streamsExtend_respond p _ s
  | snap => exact streamsExtend_snapState c s
  | render sr n hsr => exact streamsExtend_ticks c sr n s
  | nothing | prepare mb sr | trig dt vel off | dbghit dt => exact .of_eq rfl rfl rfl

/-- Settles O60: no command takes anything back, and the words of a step are taken without touching the streams. -/
theorem streamsOnlyGrow : Obligations.StreamsOnlyGrow := by
  intro s t hstep
  obtain ⟨p, rest, heff⟩ := step_effect hstep
  obtain ⟨hframes, haud, hctl⟩ := heff.streamsExtend
  exact ⟨hframes, haud, hctl⟩

/-! ### The invariant (10_state.md R30, R36, R40, 20_memory.md R65) -/

theorem voiceOk_of_free {v : Voice Num32} (h : v.active = false) : VoiceOk v := by simp [VoiceOk, h]

theorem voiceOk_clearedVoice (c : Config Num32) : VoiceOk (clearedVoice c) := voiceOk_of_free rfl

/-- A seed with its lowest bit set is not zero (40_voice_pool.md R114). -/
theorem or_one_ne_zero (x : BitVec 32) : x ||| 1 ≠ 0 := by
  intro h
  have hbit : (x ||| 1#32).getLsbD 0 = false := by rw [show x ||| 1#32 = 0 from h]; rfl
  simp at hbit

theorem voiceOk_newVoice {c : Config Num32} (hc : c.num = F32.format) (d : Draw Num32) (dt : DrumType) (vel : Num32)
    (off : Int) : VoiceOk (newVoice c d dt vel off) :=
  fun _ => ⟨rfl, inUnit_velocityOf hc vel, or_one_ne_zero _, fun _ => ⟨rfl, zero_eq hc⟩⟩

theorem bankOk_defaultBank {c : Config Num32} (hc : ConfigWf c) : BankOk c (defaultBank c) := fun id => by
  rw [regRead_defaultBank]
  exact (hc.pspec_order id).2.2

/-- The state after power-on has the invariant under every configuration. -/
theorem invOf_powerOn {c : Config Num32} (hc : ConfigWf c) : InvOf c (State.powerOn c) where
  pool := fun i => by
    change VoiceOk (voiceAt (clearedVoices c) i)
    rw [voiceAt_clearedVoices]
    exact voiceOk_clearedVoice c
  shadow := bankOk_defaultBank hc
  snapshot := bankOk_defaultBank hc
  rate := by simp [RateOk, State.powerOn]
  heldAud := heldOk_none
  heldCtl := heldOk_none

/-- Settles O53. -/
theorem resetHasInvariant : Obligations.ResetHasInvariant := invOf_powerOn cfg_wf

theorem InvOf.takeWords {c : Config Num32} {s : State} (h : InvOf c s) (p : Port) {aud ctl : Option Word}
    (rest : List Arrival) (haud : HeldOk aud) (hctl : HeldOk ctl) :
    InvOf c (Machine.takeWords p aud ctl rest s) :=
  { h with heldAud := haud, heldCtl := hctl }

theorem InvOf.prepareState {c : Config Num32} {s : State} (h : InvOf c s) (mb : BitVec 16) (sr : BitVec 32) :
    InvOf c (Machine.prepareState c mb sr s) :=
  { h with
    pool := fun i => by
      change VoiceOk (voiceAt (clearedVoices c) i)
      rw [voiceAt_clearedVoices]
      exact voiceOk_clearedVoice c
    rate := by
      rintro r ⟨⟩
      rw [toNat_rateOf]
      omega }

/-- A clamp into a range of numbers lands there (00_scope.md R10). -/
theorem within_clamp {c : Config Num32} (hc : c.num = F32.format) {lo hi : Num32} (h : F32.le lo hi = true)
    (x : Num32) : Within lo (c.clamp x lo hi) hi := by
  obtain ⟨hlo, hhi, -⟩ := F32.le_iff.1 h
  have hlolo : F32.le lo lo = true := F32.le_iff.2 ⟨hlo, hlo, le_rfl⟩
  have hhihi : F32.le hi hi = true := F32.le_iff.2 ⟨hhi, hhi, le_rfl⟩
  rcases nan_or_below_or_above_or_within h x with hnan | hbelow | habove | hin
  · rw [clamp_of_nan hc hnan]; exact ⟨hlolo, h⟩
  · rw [clamp_of_below hc h hbelow]; exact ⟨hlolo, h⟩
  · rw [clamp_of_above hc h habove]; exact ⟨h, hhihi⟩
  · rw [clamp_of_within hc hin]; exact hin

theorem pspec_lo_le_hi {c : Config Num32} (hc : ConfigWf c) (id : Fin 46) :
    F32.le (c.pspec id).lo (c.pspec id).hi = true := by
  obtain ⟨-, -, hlo, hhi⟩ := hc.pspec_order id
  exact F32.le_trans hlo hhi

/-- `SETP` writes a value in the range of its register, or nothing (44_host_commands.md R213). -/
theorem setParam_cases {c : Config Num32} (hc : ConfigWf c) (pid : BitVec 6) (val : Word) (s : State) :
    setParam c pid val s = s ∨
      ∃ id x, Within (c.pspec id).lo x (c.pspec id).hi ∧ setParam c pid val s = writePsh id x s := by
  unfold setParam
  split
  · exact .inl rfl
  · rename_i id _
    split
    · exact .inl rfl
    · rename_i x hx
      refine .inr ⟨id, x, ?_, rfl⟩
      unfold paramValue at hx
      split at hx
      · cases hx
      · cases hx
        exact within_clamp hc.binary32 (pspec_lo_le_hi hc id) _

theorem InvOf.setParam {c : Config Num32} (hc : ConfigWf c) {s : State} (h : InvOf c s) (pid : BitVec 6) (val : Word) :
    InvOf c (Machine.setParam c pid val s) := by
  obtain he | ⟨id, x, hx, he⟩ := setParam_cases hc pid val s
  · rwa [he]
  · rw [he]
    refine { h with shadow := fun j => ?_ }
    rw [writePsh_psh, regRead_set]
    split
    · subst_vars; exact hx
    · exact h.shadow j

theorem InvOf.respond {c : Config Num32} {s : State} (h : InvOf c s) (p : Port) (w : Word) :
    InvOf c (Machine.respond p w s) := by
  cases p <;> exact { h with }

theorem InvOf.setMask {c : Config Num32} {s : State} (h : InvOf c s) (m : BitVec 8) : InvOf c (Machine.setMask m s) :=
  { h with }

theorem InvOf.ctlEffect {c : Config Num32} (hc : ConfigWf c) {s : State} (h : InvOf c s) (d : Decoded) :
    InvOf c (Machine.ctlEffect c d s) := by
  cases d with
  | illegal why => exact h
  | instr i =>
    cases i with
    | setp pid val => exact h.setParam hc pid val
    | getp pid => exact h.respond .ctl _
    | dbghit dt => exact h.setMask _
    | _ => exact h

theorem InvOf.allocate {c : Config Num32} (hc : c.num = F32.format) {s : State} (h : InvOf c s) (dt : DrumType)
    (vel : Num32) (off : Int) : InvOf c (Machine.allocate c dt vel off s) :=
  { h with pool := forall_voiceAt_allocate (voiceOk_newVoice hc _ dt vel off) h.pool }

theorem InvOf.playHits {c : Config Num32} (hc : c.num = F32.format) {s : State} (h : InvOf c s) (hits : List DrumType) :
    InvOf c (Machine.playHits c hits s) := by
  induction hits generalizing s with
  | nil => exact h
  | cons k hits ih => exact ih (h.allocate hc k _ 0)

theorem InvOf.latchSnap {c : Config Num32} {s : State} (h : InvOf c s) {b : Bank Num32} (hb : BankOk c b) :
    InvOf c (countSnap (Machine.latchSnap b s)) :=
  { h with snapshot := hb }

theorem InvOf.drainHits {c : Config Num32} (hc : c.num = F32.format) {s : State} (h : InvOf c s) :
    InvOf c (Machine.drainHits c s) :=
  (h.setMask 0).playHits hc _

/-- A snapshot read from banks within their ranges is within its ranges (10_state.md R36). -/
theorem bankOk_latched {c : Config Num32} {banks : List (Bank Num32)} {now : Bank Num32} (n : Nat)
    (h : ∀ b ∈ now :: banks, BankOk c b) : BankOk c (latched c n banks now) := fun id => by
  obtain ⟨b, hb, he⟩ := regRead_latched c n banks now id
  rw [he]
  exact h b hb id

theorem InvOf.snapState {c : Config Num32} (hc : ConfigWf c) {s : State} (h : InvOf c s) :
    InvOf c (Machine.snapState c s) := by
  obtain ⟨hafter, hbanks⟩ := overlapCtl_keeps (Q := InvOf c) (c := c)
    (fun u rest hu => hu.takeWords u.port rest hu.heldAud heldOk_none) (fun u d hu => hu.ctlEffect hc d)
    s.snaps s.inbox.length 0 h
  have hlatched : BankOk c (latched c s.snaps (overlapCtl c s.snaps s.inbox.length 0 s).banks s.psh) :=
    bankOk_latched _ (List.forall_mem_cons.2 ⟨h.shadow, fun b hb => by
      obtain ⟨u, hu, rfl⟩ := hbanks b hb
      exact hu.shadow⟩)
  exact (hafter.latchSnap hlatched).drainHits hc.binary32

/-! ### The visit of a record keeps the record's invariant -/

/-- A word that a shift to the left leaves unchanged has no bit set. -/
theorem eq_zero_of_eq_shiftLeft {w k : Nat} (hk : 0 < k) {x : BitVec w} (h : x = x <<< k) : x = 0 := by
  have hbits : ∀ i, x.getLsbD i = false := by
    intro i
    induction i using Nat.strongRecOn with
    | _ i ih =>
      rw [h, BitVec.getLsbD_shiftLeft]
      rcases Nat.lt_or_ge i k with hlt | hge
      · simp [hlt]
      · rw [ih (i - k) (by omega), Bool.and_false]
  exact BitVec.eq_of_getLsbD_eq fun i _ => by simp [hbits]

/-- The same of a shift to the right. -/
theorem eq_zero_of_eq_ushiftRight {w k : Nat} (hk : 0 < k) {x : BitVec w} (h : x = x >>> k) : x = 0 := by
  have hdiv : x.toNat = x.toNat / 2 ^ k := by
    conv_lhs => rw [h, BitVec.toNat_ushiftRight, Nat.shiftRight_eq_div_pow]
  have hpow : 1 < 2 ^ k := Nat.one_lt_two_pow (by omega)
  have hzero : x.toNat = 0 := by
    by_contra hne
    have := Nat.div_lt_self (by omega : 0 < x.toNat) hpow
    omega
  exact BitVec.eq_of_toNat_eq (by simpa using hzero)

/-- The noise generator maps non-zero states to non-zero states: none of its three steps loses a bit (R148). -/
theorem xorshift32_ne_zero {x : BitVec 32} (h : x ≠ 0) : xorshift32 x ≠ 0 := by
  intro h0
  have hstep3 := eq_zero_of_eq_shiftLeft (by decide) (BitVec.xor_eq_zero_iff.1 h0)
  have hstep2 := eq_zero_of_eq_ushiftRight (by decide) (BitVec.xor_eq_zero_iff.1 hstep3)
  exact h (eq_zero_of_eq_shiftLeft (by decide) (BitVec.xor_eq_zero_iff.1 hstep2))

section
variable {N : Type}

theorem lifeState_eq_free_iff {v : Voice N} : lifeState v = .free ↔ v.active = false := by
  unfold lifeState; cases v.active <;> simp; split <;> simp

theorem lifeState_eq_pending_iff {v : Voice N} : lifeState v = .pending ↔ v.active = true ∧ v.sus ≠ 0 := by
  unfold lifeState; cases v.active <;> simp

theorem lifeState_eq_sounding_iff {v : Voice N} : lifeState v = .sounding ↔ v.active = true ∧ v.sus = 0 := by
  unfold lifeState; cases v.active <;> simp

/-- The sample and the record that the generator and the post chain of a type give (41_voice_synthesis.md R144). -/
def sound (c : Config N) (snap : Bank N) (sr : BitVec 32) (k : DrumType) (v : Voice N) : N × Voice N :=
  let raw := gen c sr k (elapsed c sr v) (tuneMulOf c snap k) (decayOf c snap k) (hatLenOf c snap) v
  post c snap k raw.1 raw.2

theorem drumAlg_of_expired {c : Config N} {snap : Bank N} {sr : BitVec 32} {k : DrumType} {v : Voice N}
    (h : expired c snap sr k v = true) : drumAlg c snap sr k v = ⟨c.zero, false, v⟩ := by
  rw [drumAlg, if_pos h]

theorem drumAlg_of_not_expired {c : Config N} {snap : Bank N} {sr : BitVec 32} {k : DrumType} {v : Voice N}
    (h : expired c snap sr k v = false) :
    drumAlg c snap sr k v = ⟨(sound c snap sr k v).1, true, (sound c snap sr k v).2⟩ := by
  rw [drumAlg, if_neg (by simp [h])]
  rfl

/-- A sounding record's phases, noise state and filter state move, and nothing else of it (R122, R157 b). -/
theorem sound_frame (c : Config N) (snap : Bank N) (sr : BitVec 32) (k : DrumType) (v : Voice N) :
    (sound c snap sr k v).2 =
      { v with
        ph := (sound c snap sr k v).2.ph
        ns := xorshift32 v.ns
        tlp := (sound c snap sr k v).2.tlp } := by
  simp only [sound, post_frame]
  rw [gen_frame]

/-- What the visit of a record gives: nothing new when free, a countdown when pending, and when sounding either its
retirement or its sound (40_voice_pool.md R120 to R123). A record of type NONE retires (log 20). -/
theorem voiceStep_cases (c : Config N) (snap : Bank N) (sr : BitVec 32) (v : Voice N) :
    (v.active = false ∧ voiceStep c snap sr v = ⟨v, none⟩) ∨
    (v.active = true ∧ v.sus ≠ 0 ∧ voiceStep c snap sr v = ⟨{ v with sus := v.sus - 1 }, none⟩) ∨
    (v.active = true ∧ voiceStep c snap sr v =
      ⟨{ v with sidx := agePlus v.sidx, active := false }, some c.zero⟩) ∨
    (v.active = true ∧ v.sus = 0 ∧ ∃ k, v.dtype = some k ∧ expired c snap sr k v = false ∧
      voiceStep c snap sr v =
        ⟨{ (sound c snap sr k v).2 with sidx := agePlus v.sidx }, some (sound c snap sr k v).1⟩) := by
  cases hl : lifeState v with
  | free => exact .inl ⟨lifeState_eq_free_iff.1 hl, voiceStep_of_free hl⟩
  | pending =>
    obtain ⟨ha, hs⟩ := lifeState_eq_pending_iff.1 hl
    exact .inr (.inl ⟨ha, hs, voiceStep_of_pending hl⟩)
  | sounding =>
    obtain ⟨ha, hs⟩ := lifeState_eq_sounding_iff.1 hl
    rw [voiceStep_of_sounding hl]
    obtain hk | ⟨k, hk⟩ := Option.eq_none_or_eq_some v.dtype
    · have hrun : drumAlgOf c snap sr v = ⟨c.zero, false, v⟩ := by simp [drumAlgOf, hk]
      exact .inr (.inr (.inl ⟨ha, by rw [hrun]; simp [afterInvocation]⟩))
    · have hrun : drumAlgOf c snap sr v = drumAlg c snap sr k v := by simp [drumAlgOf, hk]
      rw [hrun]
      cases he : expired c snap sr k v with
      | true => exact .inr (.inr (.inl ⟨ha, by rw [drumAlg_of_expired he]; simp [afterInvocation]⟩))
      | false =>
        refine .inr (.inr (.inr ⟨ha, hs, k, hk, he, ?_⟩))
        rw [drumAlg_of_not_expired he, afterInvocation, sound_frame]
        simp

end

theorem voiceOk_voiceStep (c : Config Num32) (snap : Bank Num32) (sr : BitVec 32) {v : Voice Num32} (h : VoiceOk v) :
    VoiceOk (voiceStep c snap sr v).voice := by
  obtain ⟨-, he⟩ | ⟨ha, hs, he⟩ | ⟨-, he⟩ | ⟨ha, hs, k, hk, -, he⟩ := voiceStep_cases c snap sr v
  · rwa [he]
  · obtain ⟨htype, hvel, hns, hpending⟩ := h ha
    rw [he]
    exact fun _ => ⟨htype, hvel, hns, fun _ => hpending hs⟩
  · rw [he]
    exact voiceOk_of_free rfl
  · obtain ⟨htype, hvel, hns, -⟩ := h ha
    rw [he, sound_frame]
    exact fun _ => ⟨htype, hvel, xorshift32_ne_zero hns, fun hne => absurd hs hne⟩

/-- A tick touches the voice file alone of what the invariant speaks of. -/
theorem InvOf.tick {c : Config Num32} {s : State} (h : InvOf c s) (sr : BitVec 32) : InvOf c (Machine.tick c sr s) where
  pool := fun i => by
    rw [tick_voices, voicesAfter_get]
    exact voiceOk_voiceStep c s.snap sr (h.pool i)
  shadow := by rw [tick_psh]; exact h.shadow
  snapshot := by rw [tick_snap]; exact h.snapshot
  rate := by rw [tick_sr]; exact h.rate
  heldAud := by rw [tick_audHeld]; exact h.heldAud
  heldCtl := by rw [tick_ctlHeld]; exact h.heldCtl

theorem InvOf.ticks {c : Config Num32} {s : State} (h : InvOf c s) (sr : BitVec 32) (n : Nat) :
    InvOf c (Machine.ticks c sr n s) := by
  induction n generalizing s with
  | zero => exact h
  | succ n ih => exact ih (h.tick sr)

/-- Every command keeps the invariant, under every configuration that the spec admits. -/
theorem CommandEffect.invOf {c : Config Num32} (hc : ConfigWf c) {s t : State} (h : CommandEffect c s t)
    (hs : InvOf c s) : InvOf c t := by
  cases h with
  | nothing => exact hs
  | prepare mb sr => exact hs.prepareState mb sr
  | setp pid val => exact hs.setParam hc pid val
  | getp p pid => exact hs.respond p _
  | snap => exact hs.snapState hc
  | trig dt vel off => exact hs.allocate hc.binary32 dt vel off
  | render sr n _ => exact hs.ticks sr n
  | dbghit dt => exact hs.setMask _

/-- Settles O54: the words left at the ports are first words of two-word commands, and the command of the step keeps the
invariant. -/
theorem stepKeepsInvariant : Obligations.StepKeepsInvariant := by
  intro s t hs hstep
  obtain ⟨p, rest, heff⟩ := step_effect hstep
  obtain ⟨haud, hctl⟩ := fetchFrom_heldOk s.inbox hs.heldAud hs.heldCtl
  exact heff.invOf cfg_wf (hs.takeWords p rest haud hctl)

end Sys2Proof.Machine

/-! ### Rounding of scaled and of representable values (00_scope.md R8) -/

namespace Sys2Proof

theorem F32.rne_mul_right {k : Nat} (hk : 0 < k) (n m : Nat) : F32.rne (n * k) (m * k) = F32.rne n m := by
  unfold F32.rne
  rw [Nat.mul_mod_mul_right, Nat.mul_div_mul_right _ _ hk, ← Nat.mul_assoc]
  simp only [Nat.mul_lt_mul_right hk]

/-- Rounding a fraction depends on its value only. -/
theorem F32.roundMag_mul_right {k : Nat} (hk : 0 < k) (n d : Nat) :
    F32.roundMag (n * k) (d * k) = F32.roundMag n d := by
  unfold F32.roundMag
  simp only [Nat.mul_div_mul_right _ _ hk, Nat.mul_right_comm d k, F32.rne_mul_right hk]

theorem F32.roundMag_antitone {n d d' : Nat} (hd : 0 < d) (h : d ≤ d') : F32.roundMag n d' ≤ F32.roundMag n d := by
  have hd' : 0 < d' := lt_of_lt_of_le hd h
  calc F32.roundMag n d' = F32.roundMag (n * d) (d' * d) := (F32.roundMag_mul_right hd n d').symm
    _ ≤ F32.roundMag (n * d') (d' * d) := F32.roundMag_mono (by positivity) (Nat.mul_le_mul_left n h)
    _ = F32.roundMag (n * d') (d * d') := by rw [Nat.mul_comm d' d]
    _ = F32.roundMag n d := F32.roundMag_mul_right hd' n d

theorem F32.rne_mul_self {m : Nat} (hm : 0 < m) (b : Nat) : F32.rne (b * m) m = b :=
  le_antisymm (F32.rne_le_of_le hm le_rfl) (F32.le_rne_of_le hm le_rfl)

/-- The units of a magnitude put together from an exponent and a significand of up to 24 bits. -/
theorem F32.magUnits_scaled {e r : Nat} (hr : r ≤ 2 ^ 24) (h : e = 0 ∨ 2 ^ 23 ≤ r) :
    F32.magUnits (e * 2 ^ 23 + r) = r * 2 ^ e := by
  unfold F32.magUnits
  rcases Nat.lt_or_ge r (2 ^ 23) with hsub | hnorm
  · obtain rfl : e = 0 := by omega
    rw [if_pos (by omega)]
    omega
  · rcases Nat.lt_or_ge r (2 ^ 24) with hlt | hge
    · rw [if_neg (by omega), show (e * 2 ^ 23 + r) % 2 ^ 23 = r - 2 ^ 23 by omega,
        show (e * 2 ^ 23 + r) / 2 ^ 23 - 1 = e by omega, show 2 ^ 23 + (r - 2 ^ 23) = r by omega]
    · obtain rfl : r = 2 ^ 24 := by omega
      rw [if_neg (by omega), show (e * 2 ^ 23 + 2 ^ 24) % 2 ^ 23 = 0 by omega,
        show (e * 2 ^ 23 + 2 ^ 24) / 2 ^ 23 - 1 = e + 1 by omega]
      ring

/-- The exponent at which a natural number rounds, and its significand there. -/
theorem F32.roundMag_one (n : Nat) :
    F32.roundMag n 1 = (n.log2 - 23) * 2 ^ 23 + F32.rne n (2 ^ (n.log2 - 23)) := by
  simp [F32.roundMag]

theorem F32.log2_mul_two_pow {r : Nat} (e : Nat) (h : 2 ^ 23 ≤ r) (h' : r < 2 ^ 24) : (r * 2 ^ e).log2 = 23 + e := by
  rw [Nat.log2_eq_iff (by positivity)]
  constructor
  · rw [pow_add]; exact Nat.mul_le_mul_right _ h
  · rw [show 23 + e + 1 = 24 + e by omega, pow_add]; exact Nat.mul_lt_mul_of_pos_right h' (by positivity)

/-- A number that the format has is its own rounding. -/
theorem F32.roundMag_magUnits (m : Nat) : F32.roundMag (F32.magUnits m) 1 = m := by
  rw [F32.roundMag_one]
  unfold F32.magUnits
  split
  · rename_i hsub
    have hlog : (m % 2 ^ 23).log2 - 23 = 0 := by
      rcases Nat.eq_zero_or_pos (m % 2 ^ 23) with h0 | hpos
      · rw [h0]; rfl
      · have := (Nat.log2_lt (by omega)).2 (Nat.mod_lt m (by positivity : 0 < 2 ^ 23))
        omega
    have hself : F32.rne (m % 2 ^ 23) (2 ^ 0) = m % 2 ^ 23 := by
      rw [pow_zero]
      simpa only [Nat.mul_one] using F32.rne_mul_self Nat.one_pos (m % 2 ^ 23)
    rw [hlog, hself]
    omega
  · have hmod := Nat.mod_lt m (by positivity : 0 < 2 ^ 23)
    rw [F32.log2_mul_two_pow _ (by omega) (by omega), Nat.add_sub_cancel_left, F32.rne_mul_self (by positivity)]
    omega

/-- Rounding to an integer moves a fraction by one half at most. -/
theorem F32.two_mul_rne_mul_le (n m : Nat) : 2 * (F32.rne n m * m) ≤ 2 * n + m := by
  have hdiv := Nat.div_add_mod n m
  have hcomm : n / m * m = m * (n / m) := Nat.mul_comm _ _
  have hsucc : (n / m + 1) * m = m * (n / m) + m := by ring
  unfold F32.rne
  split
  · omega
  · split
    · omega
    · rcases Nat.mod_two_eq_zero_or_one (n / m) with he | ho
      · rw [he, Nat.add_zero]; omega
      · rw [ho, hsucc]; omega

/-- The significand that a natural number rounds to has at most 24 bits, the last carry included. -/
theorem F32.rne_log2_le (n : Nat) : F32.rne n (2 ^ (n.log2 - 23)) ≤ 2 ^ 24 := by
  refine F32.rne_le_of_le (by positivity) ?_
  have hlt : n < 2 ^ (n.log2 + 1) := Nat.lt_log2_self
  calc n ≤ 2 ^ (n.log2 + 1) := hlt.le
    _ ≤ 2 ^ (24 + (n.log2 - 23)) := Nat.pow_le_pow_right (by decide) (by omega)
    _ = 2 ^ 24 * 2 ^ (n.log2 - 23) := pow_add _ _ _

theorem F32.le_rne_log2 {n : Nat} (h : 24 ≤ n.log2) : 2 ^ 23 ≤ F32.rne n (2 ^ (n.log2 - 23)) := by
  refine F32.le_rne_of_le (by positivity) ?_
  have hne : n ≠ 0 := by rintro rfl; simp at h
  calc 2 ^ 23 * 2 ^ (n.log2 - 23) = 2 ^ n.log2 := by rw [← pow_add]; congr 1; omega
    _ ≤ n := Nat.log2_self_le hne

theorem F32.roundMag_two_pow (k : Nat) : F32.roundMag (2 ^ (k + 24)) 1 = (k + 1) * 2 ^ 23 + 2 ^ 23 := by
  have hlog : (2 ^ (k + 24)).log2 - 23 = k + 1 := by rw [Nat.log2_two_pow]; omega
  rw [F32.roundMag_one, hlog, show k + 24 = 23 + (k + 1) by omega, pow_add, F32.rne_mul_self (by positivity)]

theorem F32.magUnits_roundMag_two_pow (k : Nat) :
    F32.magUnits (F32.roundMag (2 ^ (k + 24)) 1) = 2 ^ (k + 24) := by
  have hscaled := F32.magUnits_scaled (e := k + 1) (r := 2 ^ 23) (by decide) (.inr le_rfl)
  rw [F32.roundMag_two_pow, hscaled, ← pow_add, show 23 + (k + 1) = k + 24 by omega]

/-- Half a unit in the last place above a power of two is a tie, and goes back to the power of two. -/
theorem F32.roundMag_two_pow_add_half (k : Nat) :
    F32.roundMag (2 ^ (k + 24) + 2 ^ k) 1 = F32.roundMag (2 ^ (k + 24)) 1 := by
  have hsplit : 2 ^ (k + 24) + 2 ^ k = 2 ^ k + 2 ^ 23 * 2 ^ (k + 1) := by ring
  have hlow : 2 ^ k < 2 ^ (k + 1) := Nat.pow_lt_pow_right (by decide) (by omega)
  have htie : 2 * 2 ^ k = 2 ^ (k + 1) := by ring
  have hlog : (2 ^ (k + 24) + 2 ^ k).log2 = k + 24 := by
    rw [Nat.log2_eq_iff (by positivity)]
    have : 2 ^ (k + 24 + 1) = 2 ^ (k + 24) + 2 ^ 24 * 2 ^ k := by ring
    omega
  rw [F32.roundMag_two_pow, F32.roundMag_one, hlog, show k + 24 - 23 = k + 1 by omega, hsplit]
  congr 1
  unfold F32.rne
  rw [Nat.add_mul_mod_self_right, Nat.add_mul_div_right _ _ (by positivity), Nat.mod_eq_of_lt hlow,
    Nat.div_eq_of_lt hlow, htie]
  simp

/-- Up to `2^(k+25)` a number moves by `2^k` at most when it is rounded: half the spacing of the values there. -/
theorem F32.magUnits_roundMag_le {n k : Nat} (h : n ≤ 2 ^ (k + 25)) :
    F32.magUnits (F32.roundMag n 1) ≤ n + 2 ^ k := by
  rcases Nat.lt_or_eq_of_le h with hlt | heq
  · have hlog : n.log2 ≤ k + 24 := by
      rcases Nat.eq_zero_or_pos n with rfl | hpos
      · simp
      · have := (Nat.log2_lt (by omega)).2 hlt
        omega
    have hscale : n.log2 - 23 = 0 ∨ 2 ^ 23 ≤ F32.rne n (2 ^ (n.log2 - 23)) := by
      rcases Nat.lt_or_ge n.log2 24 with hl | hl
      · exact .inl (by omega)
      · exact .inr (F32.le_rne_log2 hl)
    have hpow : 2 ^ (n.log2 - 23) ≤ 2 ^ (k + 1) := Nat.pow_le_pow_right (by decide) (by omega)
    have hhalf := F32.two_mul_rne_mul_le n (2 ^ (n.log2 - 23))
    rw [F32.roundMag_one, F32.magUnits_scaled (F32.rne_log2_le n) hscale]
    rw [pow_succ] at hpow
    omega
  · have hself := F32.magUnits_roundMag_two_pow (k + 1)
    rw [show k + 1 + 24 = k + 25 by omega] at hself
    rw [heq, hself]
    exact Nat.le_add_right _ _

/-! ### Signed values: the key of a result -/

/-- The key of the value nearest to `z / d` units; too large goes to the key of an infinity. -/
def F32.roundKey (z : Int) (d : Nat) : Int := z.sign * (F32.roundMag z.natAbs d ⊓ F32.infMag : Nat)

theorem F32.roundMag_zero {d : Nat} (hd : 0 < d) : F32.roundMag 0 d = 0 := by
  simp [F32.roundMag, F32.rne, hd]

@[simp] theorem F32.roundKey_zero (d : Nat) : F32.roundKey 0 d = 0 := by simp [F32.roundKey]

theorem F32.roundKey_neg (z : Int) (d : Nat) : F32.roundKey (-z) d = -F32.roundKey z d := by
  simp [F32.roundKey, Int.sign_neg]

theorem F32.roundKey_of_nonneg {z : Int} {d : Nat} (hd : 0 < d) (h : 0 ≤ z) :
    F32.roundKey z d = (F32.roundMag z.natAbs d ⊓ F32.infMag : Nat) := by
  rcases h.lt_or_eq with hpos | rfl
  · rw [F32.roundKey, Int.sign_eq_one_of_pos hpos, one_mul]
  · simp [F32.roundMag_zero hd]

theorem F32.roundKey_natCast {d : Nat} (hd : 0 < d) (n : Nat) :
    F32.roundKey n d = (F32.roundMag n d ⊓ F32.infMag : Nat) := by
  rw [F32.roundKey_of_nonneg hd (Int.natCast_nonneg n), Int.natAbs_natCast]

theorem F32.roundKey_nonneg {z : Int} {d : Nat} (hd : 0 < d) (h : 0 ≤ z) : 0 ≤ F32.roundKey z d := by
  rw [F32.roundKey_of_nonneg hd h]; positivity

theorem F32.roundKey_mono {z z' : Int} {d : Nat} (hd : 0 < d) (h : z ≤ z') : F32.roundKey z d ≤ F32.roundKey z' d := by
  have hpos : ∀ {x y : Int}, 0 ≤ x → x ≤ y → F32.roundKey x d ≤ F32.roundKey y d := by
    intro x y hx hxy
    rw [F32.roundKey_of_nonneg hd hx, F32.roundKey_of_nonneg hd (hx.trans hxy)]
    have := F32.roundMag_mono hd (show x.natAbs ≤ y.natAbs by omega)
    exact_mod_cast inf_le_inf_right _ this
  rcases le_total 0 z with hz | hz
  · exact hpos hz h
  · rcases le_total 0 z' with hz' | hz'
    · have hneg := F32.roundKey_nonneg hd (show 0 ≤ -z by omega)
      rw [F32.roundKey_neg] at hneg
      have := F32.roundKey_nonneg hd hz'
      omega
    · have := hpos (show 0 ≤ -z' by omega) (show -z' ≤ -z by omega)
      rw [F32.roundKey_neg, F32.roundKey_neg] at this
      omega

theorem F32.natAbs_roundKey_le {z : Int} {d : Nat} {n : Nat} (hd : 0 < d) (h : z.natAbs ≤ n) :
    ((F32.roundKey z d).natAbs : Int) ≤ F32.roundKey n d := by
  have hpos := F32.roundKey_mono hd (show z ≤ n by omega)
  have hneg := F32.roundKey_mono hd (show -z ≤ n by omega)
  rw [F32.roundKey_neg] at hneg
  omega

/-- From `u` the rounded distance to a power of two `b` does not lead beyond `b`: the distance was rounded by half a unit in
the last place of `b` at most, and that much above `b` is a tie, which goes back to `b`. -/
theorem F32.roundKey_add_rounded_distance {u e : Int} {b j : Nat} (hb : b = 2 ^ (j + 24)) (hu : u.natAbs ≤ b)
    (he : e ≤ F32.magUnits (F32.roundMag (b - u).natAbs 1)) : F32.roundKey (u + e) 1 ≤ F32.roundKey b 1 := by
  have hdouble : 2 ^ (j + 25) = b * 2 := by rw [hb]; exact pow_succ 2 (j + 24)
  have hmoved := F32.magUnits_roundMag_le (n := (b - u).natAbs) (k := j) (by omega)
  have htie : F32.roundKey ((b + 2 ^ j : Nat) : Int) 1 = F32.roundKey b 1 := by
    rw [F32.roundKey_natCast Nat.one_pos, F32.roundKey_natCast Nat.one_pos, hb, F32.roundMag_two_pow_add_half]
  rw [← htie]
  generalize 2 ^ j = half at hmoved
  exact F32.roundKey_mono Nat.one_pos (by omega)

theorem F32.natAbs_key (x : Num32) : (F32.key x).natAbs = F32.mag x := by
  unfold F32.key; split <;> omega

theorem F32.key_round (neg : Bool) (n d : Nat) :
    F32.key (F32.round neg n d) =
      if neg then -((F32.roundMag n d ⊓ F32.infMag : Nat) : Int) else (F32.roundMag n d ⊓ F32.infMag : Nat) := by
  have hi : F32.infMag < 2 ^ 31 := by decide
  exact Machine.key_pack (by omega)

/-- The units of a value, of its key. -/
theorem F32.units_eq (x : Num32) : F32.units x = (F32.key x).sign * (F32.magUnits (F32.key x).natAbs : Int) := by
  have h0 : F32.magUnits 0 = 0 := by decide
  rw [F32.natAbs_key]
  unfold F32.units F32.key
  rcases Nat.eq_zero_or_pos (F32.mag x) with hz | hpos
  · simp [hz, h0]
  · cases x.msb
    · simp [Int.sign_eq_one_of_pos (show (0 : Int) < F32.mag x by omega)]
    · simp [Int.sign_neg, Int.sign_eq_one_of_pos (show (0 : Int) < F32.mag x by omega)]

theorem F32.units_neg_of_key {x y : Num32} (h : F32.key x = -F32.key y) : F32.units x = -F32.units y := by
  rw [F32.units_eq, F32.units_eq, h, Int.sign_neg, Int.natAbs_neg, neg_mul]

theorem F32.natAbs_units (x : Num32) : (F32.units x).natAbs = F32.magUnits (F32.mag x) := by
  unfold F32.units; split <;> omega

theorem F32.units_of_nonneg {x : Num32} (h : 0 ≤ F32.key x) : F32.units x = F32.magUnits (F32.mag x) := by
  have h0 : F32.magUnits 0 = 0 := by decide
  rw [← F32.natAbs_key, F32.units_eq]
  rcases h.lt_or_eq with hpos | hz
  · rw [Int.sign_eq_one_of_pos hpos, one_mul]
  · rw [← hz]; simp [h0]

theorem F32.units_mono {x y : Num32} (h : F32.key x ≤ F32.key y) : F32.units x ≤ F32.units y := by
  unfold F32.key at h
  unfold F32.units
  have hxy := fun hle : F32.mag x ≤ F32.mag y => F32.magUnits_mono hle
  have hyx := fun hle : F32.mag y ≤ F32.mag x => F32.magUnits_mono hle
  cases hx : x.msb <;> cases hy : y.msb <;> simp only [hx, hy, if_true, if_false, Bool.false_eq_true] at h ⊢
  · have := hxy (by omega); omega
  · have := hxy (by omega)
    have hy0 : F32.mag y = 0 := by omega
    have h0 : F32.magUnits 0 = 0 := by decide
    rw [hy0, h0] at this ⊢
    omega
  · omega
  · have := hyx (by omega); omega

/-- The rounding of a value's own units is its key, if it is finite. -/
theorem F32.roundKey_units {x : Num32} (h : F32.isFinite x = true) : F32.roundKey (F32.units x) 1 = F32.key x := by
  have hfin : F32.mag x < F32.infMag := by simpa [F32.isFinite] using h
  have hpos : ∀ y : Num32, F32.mag y = F32.mag x → 0 ≤ F32.key y → F32.roundKey (F32.units y) 1 = F32.key y := by
    intro y hm hy
    rw [F32.units_of_nonneg hy, F32.roundKey_of_nonneg (by decide) (by positivity), Int.natAbs_natCast,
      F32.roundMag_magUnits]
    have := F32.natAbs_key y
    omega
  rcases le_total 0 (F32.key x) with hx | hx
  · exact hpos x rfl hx
  · have hkey : F32.key (F32.abs x) = -F32.key x := by
      rw [F32.abs, Machine.key_pack (F32.mag_lt x)]
      have := F32.natAbs_key x
      simp only [Bool.false_eq_true, if_false]
      omega
    have hmag : F32.mag (F32.abs x) = F32.mag x := F32.mag_pack (F32.mag_lt x)
    have := hpos (F32.abs x) hmag (by omega)
    rw [F32.units_neg_of_key hkey, F32.roundKey_neg] at this
    omega

end Sys2Proof

/-! ### The key of the result of an operation on finite values -/

namespace Sys2Proof

theorem F32.isFinite_iff {x : Num32} : F32.isFinite x = true ↔ (F32.key x).natAbs < F32.infMag := by
  rw [F32.natAbs_key, F32.isFinite, decide_eq_true_eq]

theorem F32.le_zero_iff {x : Num32} : F32.le 0 x = true ↔ F32.isNaN x = false ∧ 0 ≤ F32.key x := by
  have hn : F32.isNaN (0 : Num32) = false := by decide
  have hk : F32.key 0 = 0 := by decide
  rw [F32.le_iff, hn, hk]
  simp

theorem F32.lt_zero_iff {x : Num32} : F32.lt 0 x = true ↔ F32.isNaN x = false ∧ 0 < F32.key x := by
  have hn : F32.isNaN (0 : Num32) = false := by decide
  have hk : F32.key 0 = 0 := by decide
  rw [F32.lt_iff, hn, hk]
  simp

theorem F32.magUnits_pos {x : Num32} (h : F32.lt 0 x = true) : 0 < F32.magUnits (F32.mag x) := by
  have hkey := (F32.lt_zero_iff.1 h).2
  have hmag := F32.natAbs_key x
  exact lt_of_lt_of_le (by decide : 0 < F32.magUnits 1) (F32.magUnits_mono (by omega))

/-- A value between two finite ones is finite. -/
theorem F32.isFinite_of_le {a x b : Num32} (ha : F32.isFinite a = true) (hb : F32.isFinite b = true)
    (h : F32.le a x = true) (h' : F32.le x b = true) : F32.isFinite x = true := by
  rw [F32.isFinite_iff] at *
  obtain ⟨-, -, hax⟩ := F32.le_iff.1 h
  obtain ⟨-, -, hxb⟩ := F32.le_iff.1 h'
  omega

theorem F32.isFinite_of_nonneg_of_le {x b : Num32} (hb : F32.isFinite b = true) (h : F32.le 0 x = true)
    (h' : F32.le x b = true) : F32.isFinite x = true :=
  F32.isFinite_of_le (by decide) hb h h'

theorem F32.le_refl {x : Num32} (h : F32.isNaN x = false) : F32.le x x = true := F32.le_iff.2 ⟨h, h, le_rfl⟩

theorem F32.key_neg (x : Num32) : F32.key (F32.neg x) = -F32.key x := by
  unfold F32.key
  rw [Machine.msb_neg, Machine.mag_neg]
  cases x.msb <;> simp

theorem F32.isFinite_neg {x : Num32} (h : F32.isFinite x = true) : F32.isFinite (F32.neg x) = true := by
  rw [F32.isFinite_iff, F32.key_neg, Int.natAbs_neg, ← F32.isFinite_iff]
  exact h

/-- A rounded fraction with a sign has the key of the signed fraction. -/
theorem F32.key_round_eq_roundKey (neg : Bool) (n : Nat) {d : Nat} (hd : 0 < d) :
    F32.key (F32.round neg n d) = F32.roundKey (if neg then -(n : Int) else n) d := by
  have hn : F32.roundKey n d = (F32.roundMag n d ⊓ F32.infMag : Nat) := by
    simpa using F32.roundKey_of_nonneg hd (Int.natCast_nonneg n)
  rw [F32.key_round]
  cases neg
  · simpa using hn.symm
  · simp only [if_true]
    rw [F32.roundKey_neg, hn]

theorem F32.key_add {x y : Num32} (hx : F32.isFinite x = true) (hy : F32.isFinite y = true) :
    F32.key (F32.add x y) = F32.roundKey (F32.units x + F32.units y) 1 := by
  simp only [F32.add, F32.isNaN_of_finite hx, F32.isNaN_of_finite hy, F32.isInf_of_finite hx, F32.isInf_of_finite hy,
    Bool.or_self, Bool.false_eq_true, if_false]
  split
  · rename_i hz
    rw [hz, Machine.key_pack (by decide)]
    simp
  · rw [F32.key_round_eq_roundKey _ _ Nat.one_pos]
    congr 1
    simp only [decide_eq_true_eq]
    split_ifs <;> omega

theorem F32.isNaN_add {x y : Num32} (hx : F32.isFinite x = true) (hy : F32.isFinite y = true) :
    F32.isNaN (F32.add x y) = false := by
  simp only [F32.add, F32.isNaN_of_finite hx, F32.isNaN_of_finite hy, F32.isInf_of_finite hx, F32.isInf_of_finite hy,
    Bool.or_self, Bool.false_eq_true, if_false]
  split
  · exact Machine.isNaN_pack (Nat.zero_le _)
  · exact F32.isNaN_round _ _ _

theorem F32.key_mul {x y : Num32} (hx : F32.isFinite x = true) (hy : F32.isFinite y = true) :
    F32.key (F32.mul x y) = F32.roundKey (F32.units x * F32.units y) (2 ^ 149) := by
  simp only [F32.mul, F32.isNaN_of_finite hx, F32.isNaN_of_finite hy, F32.isInf_of_finite hx, F32.isInf_of_finite hy,
    Bool.or_self, Bool.false_eq_true, if_false]
  rw [F32.key_round_eq_roundKey _ _ (by positivity)]
  congr 1
  unfold F32.units
  cases x.msb <;> cases y.msb <;> simp

theorem F32.isNaN_mul {x y : Num32} (hx : F32.isFinite x = true) (hy : F32.isFinite y = true) :
    F32.isNaN (F32.mul x y) = false := by
  simp [F32.mul, F32.isNaN_of_finite hx, F32.isNaN_of_finite hy, F32.isInf_of_finite hx, F32.isInf_of_finite hy]

theorem F32.mul_comm (x y : Num32) : F32.mul x y = F32.mul y x := by
  simp only [F32.mul, Bool.or_comm (F32.isNaN x), Bool.or_comm (F32.isInf x), Bool.or_comm (F32.isZero x),
    bne_comm (a := x.msb), Nat.mul_comm (F32.magUnits (F32.mag x))]

/-- A finite value divided by a positive one is never a NaN, and its key is that of the exact quotient; a division by an
infinity gives a zero. -/
theorem F32.key_div {x y : Num32} (hx : F32.isFinite x = true) (hy : F32.lt 0 y = true) :
    F32.isNaN (F32.div x y) = false ∧
      F32.key (F32.div x y) = if F32.isInf y then 0 else F32.roundKey (F32.units x * 2 ^ 149) (F32.magUnits (F32.mag y)) := by
  obtain ⟨hyn, hyk⟩ := F32.lt_zero_iff.1 hy
  have hym : y.msb = false := F32.key_nonneg_msb hyk
  have hmag : F32.mag y ≠ 0 := by have := F32.natAbs_key y; omega
  have hz : F32.isZero y = false := by simpa [F32.isZero] using hmag
  cases hi : F32.isInf y with
  | true =>
    have hdiv : F32.div x y = F32.pack (x.msb != y.msb) 0 := by
      simp [F32.div, F32.isNaN_of_finite hx, F32.isInf_of_finite hx, hyn, hi]
    rw [hdiv]
    exact ⟨Machine.isNaN_pack (Nat.zero_le _), by rw [Machine.key_pack (by decide)]; simp⟩
  | false =>
    have hdiv : F32.div x y =
        F32.round (x.msb != y.msb) (F32.magUnits (F32.mag x) * 2 ^ 149) (F32.magUnits (F32.mag y)) := by
      simp [F32.div, F32.isNaN_of_finite hx, F32.isInf_of_finite hx, hyn, hi, hz]
    have hpos := F32.magUnits_pos hy
    rw [hdiv]
    refine ⟨F32.isNaN_round _ _ _, ?_⟩
    rw [F32.key_round_eq_roundKey _ _ hpos]
    congr 1
    unfold F32.units
    rw [hym]
    cases x.msb <;> simp

/-! ### Flushing keeps the order, the sign and the smallness of values -/

theorem F32.key_flush (x : Num32) : F32.key (F32.flush x) = if (F32.key x).natAbs < 2 ^ 23 then 0 else F32.key x := by
  rw [F32.natAbs_key, F32.flush]
  split
  · rw [Machine.key_pack (by decide)]; simp
  · rfl

end Sys2Proof

namespace Sys2Proof.Machine

section
variable {c : Config Num32} (hc : c.num = F32.format)
include hc

theorem key_flush_cases (x : Num32) :
    F32.key (c.flush x) = F32.key x ∨ (F32.key (c.flush x) = 0 ∧ (F32.key x).natAbs < 2 ^ 23 ∧ c.ftz = true) := by
  rw [flush_eq hc]
  cases hf : c.ftz
  · exact .inl (by simp)
  · rw [if_pos rfl, F32.key_flush]
    split
    · exact .inr ⟨rfl, ‹_›, rfl⟩
    · exact .inl rfl

theorem key_flush_mono {x y : Num32} (h : F32.key x ≤ F32.key y) : F32.key (c.flush x) ≤ F32.key (c.flush y) := by
  rw [flush_eq hc, flush_eq hc]
  cases c.ftz
  · exact h
  · rw [if_pos rfl, if_pos rfl, F32.key_flush, F32.key_flush]
    split_ifs <;> omega

theorem key_flush_of_neg {x y : Num32} (h : F32.key x = -F32.key y) :
    F32.key (c.flush x) = -F32.key (c.flush y) := by
  rw [flush_eq hc, flush_eq hc]
  cases c.ftz
  · exact h
  · rw [if_pos rfl, if_pos rfl, F32.key_flush, F32.key_flush]
    split_ifs <;> omega

theorem natAbs_key_flush_le (x : Num32) : (F32.key (c.flush x)).natAbs ≤ (F32.key x).natAbs := by
  obtain he | ⟨he, -⟩ := key_flush_cases hc x <;> omega

/-- A value that is zero or not subnormal is not touched. -/
theorem key_flush_of_normal {x : Num32} (h : 2 ^ 23 ≤ (F32.key x).natAbs ∨ F32.key x = 0) :
    F32.key (c.flush x) = F32.key x := by
  obtain he | ⟨he, hs, -⟩ := key_flush_cases hc x
  · exact he
  · omega

/-! ### Operations keep order (00_scope.md R8: each is rounded once, and rounding keeps order) -/

theorem le_add {x x' y y' : Num32} (fx : F32.isFinite x = true) (fx' : F32.isFinite x' = true)
    (fy : F32.isFinite y = true) (fy' : F32.isFinite y' = true) (hx : F32.le x x' = true) (hy : F32.le y y' = true) :
    F32.le (c.add x y) (c.add x' y') = true := by
  have ux := F32.units_mono (F32.le_iff.1 hx).2.2
  have uy := F32.units_mono (F32.le_iff.1 hy).2.2
  rw [add_eq hc, add_eq hc, F32.le_iff, isNaN_flush hc, isNaN_flush hc]
  refine ⟨F32.isNaN_add fx fy, F32.isNaN_add fx' fy', key_flush_mono hc ?_⟩
  rw [F32.key_add fx fy, F32.key_add fx' fy']
  exact F32.roundKey_mono Nat.one_pos (by omega)

theorem sub_eq_add_neg (x y : Num32) : c.sub x y = c.add x (F32.neg y) := by rw [sub_eq hc, add_eq hc]; rfl

theorem le_sub {x x' y y' : Num32} (fx : F32.isFinite x = true) (fx' : F32.isFinite x' = true)
    (fy : F32.isFinite y = true) (fy' : F32.isFinite y' = true) (hx : F32.le x x' = true) (hy : F32.le y' y = true) :
    F32.le (c.sub x y) (c.sub x' y') = true := by
  obtain ⟨hy', hyn, hk⟩ := F32.le_iff.1 hy
  rw [sub_eq_add_neg hc, sub_eq_add_neg hc]
  refine le_add hc fx fx' (F32.isFinite_neg fy) (F32.isFinite_neg fy') hx (F32.le_iff.2 ?_)
  rw [isNaN_neg, isNaN_neg, F32.key_neg, F32.key_neg]
  exact ⟨hyn, hy', by omega⟩

theorem le_mul {k x x' : Num32} (fk : F32.isFinite k = true) (fx : F32.isFinite x = true)
    (fx' : F32.isFinite x' = true) (hk : F32.le 0 k = true) (hx : F32.le x x' = true) :
    F32.le (c.mul k x) (c.mul k x') = true := by
  have ux := F32.units_mono (F32.le_iff.1 hx).2.2
  have uk := F32.units_of_nonneg (F32.le_zero_iff.1 hk).2
  rw [mul_eq hc, mul_eq hc, F32.le_iff, isNaN_flush hc, isNaN_flush hc]
  refine ⟨F32.isNaN_mul fk fx, F32.isNaN_mul fk fx', key_flush_mono hc ?_⟩
  rw [F32.key_mul fk fx, F32.key_mul fk fx', uk]
  exact F32.roundKey_mono (by positivity) (mul_le_mul_of_nonneg_left ux (by positivity))

/-- A quotient rises with a non-negative dividend and falls with a positive divisor; the divisor may be an infinity. -/
theorem le_div {x a y b : Num32} (fa : F32.isFinite a = true) (fb : F32.isFinite b = true) (hx : F32.le 0 x = true)
    (hxa : F32.le x a = true) (hb : F32.lt 0 b = true) (hby : F32.le b y = true) :
    F32.le 0 (c.div x y) = true ∧ F32.le (c.div x y) (c.div a b) = true := by
  have fx : F32.isFinite x = true := F32.isFinite_of_nonneg_of_le fa hx hxa
  have hkb := (F32.lt_zero_iff.1 hb).2
  obtain ⟨-, hny, hkby⟩ := F32.le_iff.1 hby
  have hy : F32.lt 0 y = true := F32.lt_zero_iff.2 ⟨hny, by omega⟩
  have hkx := (F32.le_zero_iff.1 hx).2
  have hkxa := (F32.le_iff.1 hxa).2.2
  obtain ⟨hn, hk⟩ := F32.key_div fx hy
  obtain ⟨hn', hk'⟩ := F32.key_div fa hb
  rw [F32.isInf_of_finite fb] at hk'
  simp only [Bool.false_eq_true, if_false] at hk'
  have hmb : F32.mag b ≤ F32.mag y := by have := F32.natAbs_key b; have := F32.natAbs_key y; omega
  have hb0 := F32.magUnits_pos hb
  have hby' := F32.magUnits_mono hmb
  have hux : 0 ≤ F32.units x := by rw [F32.units_of_nonneg hkx]; positivity
  have hua := F32.units_mono hkxa
  have hz : F32.key 0 = 0 := by decide
  have hlow : 0 ≤ F32.key (F32.div x y) := by
    rw [hk]
    split
    · exact le_rfl
    · exact F32.roundKey_nonneg (by omega) (by positivity)
  have hhigh : F32.key (F32.div x y) ≤ F32.key (F32.div a b) := by
    rw [hk, hk']
    split
    · exact F32.roundKey_nonneg hb0 (mul_nonneg (hux.trans hua) (by positivity))
    · calc F32.roundKey (F32.units x * 2 ^ 149) (F32.magUnits (F32.mag y))
          ≤ F32.roundKey (F32.units x * 2 ^ 149) (F32.magUnits (F32.mag b)) := by
            rw [F32.roundKey_of_nonneg (by omega) (by positivity), F32.roundKey_of_nonneg hb0 (by positivity)]
            exact_mod_cast inf_le_inf_right _ (F32.roundMag_antitone hb0 hby')
        _ ≤ F32.roundKey (F32.units a * 2 ^ 149) (F32.magUnits (F32.mag b)) :=
            F32.roundKey_mono hb0 (by omega)
  rw [div_eq hc, div_eq hc, F32.le_zero_iff, F32.le_iff, isNaN_flush hc, isNaN_flush hc]
  have h0 := key_flush_mono hc (x := 0) (y := F32.div x y) (by omega)
  rw [key_flush_of_normal hc (.inr hz), hz] at h0
  exact ⟨⟨hn, h0⟩, hn, hn', key_flush_mono hc hhigh⟩

end

/-! ### Bounds on magnitudes -/

/-- The magnitude of `x` is at most `a`. -/
abbrev AbsLe (x a : Num32) : Prop := F32.le (F32.abs x) a = true

theorem absLe_iff {x a : Num32} :
    AbsLe x a ↔ F32.isNaN x = false ∧ F32.isNaN a = false ∧ ((F32.key x).natAbs : Int) ≤ F32.key a := by
  have hm : F32.mag (F32.abs x) = F32.mag x := F32.mag_pack (F32.mag_lt x)
  have hk : F32.key (F32.abs x) = (F32.key x).natAbs := by
    rw [F32.natAbs_key, F32.abs, Machine.key_pack (F32.mag_lt x)]
    simp
  have hn : F32.isNaN (F32.abs x) = F32.isNaN x := by rw [F32.isNaN, F32.isNaN, hm]
  rw [AbsLe, F32.le_iff, hk, hn]

theorem AbsLe.trans {x a b : Num32} (h : AbsLe x a) (h' : F32.le a b = true) : AbsLe x b := F32.le_trans h h'

theorem AbsLe.isFinite {x a : Num32} (h : AbsLe x a) (ha : F32.isFinite a = true) : F32.isFinite x = true := by
  obtain ⟨-, -, hk⟩ := absLe_iff.1 h
  rw [F32.isFinite_iff] at *
  omega

theorem absLe_of_nonneg {x a : Num32} (h : F32.le 0 x = true) (h' : F32.le x a = true) : AbsLe x a := by
  obtain ⟨hn, hk⟩ := F32.le_zero_iff.1 h
  obtain ⟨-, ha, hka⟩ := F32.le_iff.1 h'
  exact absLe_iff.2 ⟨hn, ha, by omega⟩

theorem AbsLe.bound_nonneg {x a : Num32} (h : AbsLe x a) : 0 ≤ F32.key a :=
  le_trans (Int.natCast_nonneg _) (absLe_iff.1 h).2.2

theorem absLe_neg {x a : Num32} (h : AbsLe x a) : AbsLe (F32.neg x) a := by
  rw [absLe_iff] at *
  rwa [isNaN_neg, F32.key_neg, Int.natAbs_neg]

theorem unitMagnitude_of_inUnit {x : Num32} (h : F32.inUnit x = true) : UnitMagnitude x := by
  obtain ⟨h0, h1⟩ := inUnit_iff_within.1 h
  exact absLe_of_nonneg h0 h1

theorem AbsLe.natAbs_units_le {x a : Num32} (h : AbsLe x a) : (F32.units x).natAbs ≤ (F32.units a).natAbs := by
  obtain ⟨-, -, hk⟩ := absLe_iff.1 h
  rw [F32.natAbs_units, F32.natAbs_units]
  have := F32.natAbs_key x
  have := F32.natAbs_key a
  exact F32.magUnits_mono (by omega)

section
variable {c : Config Num32} (hc : c.num = F32.format) {x y a b d : Num32}

theorem absLe_f32_add (fa : F32.isFinite a = true) (fb : F32.isFinite b = true) (hx : AbsLe x a) (hy : AbsLe y b) :
    AbsLe (F32.add x y) (F32.add a b) := by
  have ua : 0 ≤ F32.units a := by rw [F32.units_of_nonneg hx.bound_nonneg]; positivity
  have ub : 0 ≤ F32.units b := by rw [F32.units_of_nonneg hy.bound_nonneg]; positivity
  have hux := hx.natAbs_units_le
  have huy := hy.natAbs_units_le
  have fx := hx.isFinite fa
  have fy := hy.isFinite fb
  rw [absLe_iff]
  refine ⟨F32.isNaN_add fx fy, F32.isNaN_add fa fb, ?_⟩
  rw [F32.key_add fx fy, F32.key_add fa fb]
  have := F32.natAbs_roundKey_le (z := F32.units x + F32.units y) (n := (F32.units a + F32.units b).natAbs)
    Nat.one_pos (by omega)
  rwa [Int.natAbs_of_nonneg (show 0 ≤ F32.units a + F32.units b by omega)] at this

theorem absLe_f32_mul (fa : F32.isFinite a = true) (fb : F32.isFinite b = true) (hx : AbsLe x a) (hy : AbsLe y b) :
    AbsLe (F32.mul x y) (F32.mul a b) := by
  have ua : 0 ≤ F32.units a := by rw [F32.units_of_nonneg hx.bound_nonneg]; positivity
  have ub : 0 ≤ F32.units b := by rw [F32.units_of_nonneg hy.bound_nonneg]; positivity
  have fx := hx.isFinite fa
  have fy := hy.isFinite fb
  rw [absLe_iff]
  refine ⟨F32.isNaN_mul fx fy, F32.isNaN_mul fa fb, ?_⟩
  rw [F32.key_mul fx fy, F32.key_mul fa fb]
  have hle : (F32.units x * F32.units y).natAbs ≤ (F32.units a * F32.units b).natAbs := by
    rw [Int.natAbs_mul, Int.natAbs_mul]
    exact Nat.mul_le_mul hx.natAbs_units_le hy.natAbs_units_le
  have := F32.natAbs_roundKey_le (d := 2 ^ 149) (by positivity) hle
  rwa [Int.natAbs_of_nonneg (show 0 ≤ F32.units a * F32.units b by positivity)] at this

/-- A factor of magnitude at most one makes nothing larger. -/
theorem absLe_f32_mul_unit (fa : F32.isFinite a = true) (hx : AbsLe x a) (hy : UnitMagnitude y) : AbsLe (F32.mul x y) a := by
  have hone : F32.units one = 2 ^ 149 := by decide +kernel
  have fone : F32.isFinite one = true := by decide
  refine (absLe_f32_mul fa fone hx hy).trans (F32.le_iff.2 ⟨F32.isNaN_mul fa fone, F32.isNaN_of_finite fa, ?_⟩)
  have hscale := F32.roundMag_mul_right (k := 2 ^ 149) (by positivity) (F32.units a).natAbs 1
  rw [F32.key_mul fa fone, ← F32.roundKey_units fa, hone]
  have hnn : 0 ≤ F32.units a := by rw [F32.units_of_nonneg hx.bound_nonneg]; positivity
  rw [F32.roundKey_of_nonneg (by positivity) (by positivity), F32.roundKey_of_nonneg Nat.one_pos hnn, Int.natAbs_mul]
  rw [Nat.one_mul] at hscale
  exact_mod_cast (congrArg (· ⊓ F32.infMag) hscale).le

include hc

/-- Flushing both sides keeps a bound. -/
theorem absLe_flush (h : AbsLe x a) : AbsLe (c.flush x) (c.flush a) := by
  obtain ⟨hn, hna, hk⟩ := absLe_iff.1 h
  rw [absLe_iff, isNaN_flush hc, isNaN_flush hc]
  refine ⟨hn, hna, ?_⟩
  have hneg : F32.key (F32.neg a) = -F32.key a := F32.key_neg a
  have hlow := key_flush_mono hc (x := F32.neg a) (y := x) (by omega)
  have hhigh := key_flush_mono hc (x := x) (y := a) (by omega)
  rw [key_flush_of_neg hc hneg] at hlow
  omega

theorem absLe_flush_left (h : AbsLe x a) : AbsLe (c.flush x) a := by
  obtain ⟨hn, hna, hk⟩ := absLe_iff.1 h
  exact absLe_iff.2 ⟨by rwa [isNaN_flush hc], hna, by have := natAbs_key_flush_le hc x; omega⟩

theorem absLe_add (fa : F32.isFinite a = true) (fb : F32.isFinite b = true) (hx : AbsLe x a) (hy : AbsLe y b) :
    AbsLe (c.add x y) (c.add a b) := by
  rw [add_eq hc, add_eq hc]
  exact absLe_flush hc (absLe_f32_add fa fb hx hy)

theorem absLe_mul (fa : F32.isFinite a = true) (fb : F32.isFinite b = true) (hx : AbsLe x a) (hy : AbsLe y b) :
    AbsLe (c.mul x y) (c.mul a b) := by
  rw [mul_eq hc, mul_eq hc]
  exact absLe_flush hc (absLe_f32_mul fa fb hx hy)

/-- A sum under a bound that is given as a value. -/
theorem absLe_add_of (fa : F32.isFinite a = true) (fb : F32.isFinite b = true) (hd : F32.le (F32.add a b) d = true)
    (hx : AbsLe x a) (hy : AbsLe y b) : AbsLe (c.add x y) d := by
  rw [add_eq hc]
  exact absLe_flush_left hc ((absLe_f32_add fa fb hx hy).trans hd)

theorem absLe_mul_of (fa : F32.isFinite a = true) (fb : F32.isFinite b = true) (hd : F32.le (F32.mul a b) d = true)
    (hx : AbsLe x a) (hy : AbsLe y b) : AbsLe (c.mul x y) d := by
  rw [mul_eq hc]
  exact absLe_flush_left hc ((absLe_f32_mul fa fb hx hy).trans hd)

theorem absLe_sub_of (fa : F32.isFinite a = true) (fb : F32.isFinite b = true) (hd : F32.le (F32.add a b) d = true)
    (hx : AbsLe x a) (hy : AbsLe y b) : AbsLe (c.sub x y) d := by
  rw [sub_eq_add_neg hc]
  exact absLe_add_of hc fa fb hd hx (absLe_neg hy)

theorem absLe_mul_unit (fa : F32.isFinite a = true) (hx : AbsLe x a) (hy : UnitMagnitude y) : AbsLe (c.mul x y) a := by
  rw [mul_eq hc]
  exact absLe_flush_left hc (absLe_f32_mul_unit fa hx hy)

theorem absLe_unit_mul (fa : F32.isFinite a = true) (hx : AbsLe x a) (hy : UnitMagnitude y) : AbsLe (c.mul y x) a := by
  rw [mul_eq hc, F32.mul_comm, ← mul_eq hc]
  exact absLe_mul_unit hc fa hx hy

end

end Sys2Proof.Machine

/-! ### What a result says of its operands -/

namespace Sys2Proof

theorem F32.isFinite_eq (x : Num32) : F32.isFinite x = (!F32.isNaN x && !F32.isInf x) := by
  rw [Bool.eq_iff_iff]
  simp only [F32.isFinite, F32.isNaN, F32.isInf, Bool.and_eq_true, Bool.not_eq_true', decide_eq_true_eq,
    decide_eq_false_iff_not, beq_eq_false_iff_ne]
  omega

theorem F32.not_isFinite_nan : F32.isFinite F32.nan = false := by decide

theorem F32.isFinite_pack_infMag (neg : Bool) : F32.isFinite (F32.pack neg F32.infMag) = false := by
  cases neg <;> decide

/-- A finite sum has finite summands. -/
theorem F32.isFinite_of_add {x y : Num32} (h : F32.isFinite (F32.add x y) = true) :
    F32.isFinite x = true ∧ F32.isFinite y = true := by
  unfold F32.add at h
  split at h
  · rw [F32.not_isFinite_nan] at h; cases h
  · rename_i hn
    split at h
    · rename_i hx
      split at h
      · rw [F32.not_isFinite_nan] at h; cases h
      · rw [F32.isFinite_eq, hx] at h; simp at h
    · split at h
      · rename_i hy
        rw [F32.isFinite_eq, hy] at h; simp at h
      · rename_i hx hy
        simp_all [F32.isFinite_eq]

/-- A finite product has finite factors. -/
theorem F32.isFinite_of_mul {x y : Num32} (h : F32.isFinite (F32.mul x y) = true) :
    F32.isFinite x = true ∧ F32.isFinite y = true := by
  unfold F32.mul at h
  split at h
  · rw [F32.not_isFinite_nan] at h; cases h
  · rename_i hn
    split at h
    · split at h
      · rw [F32.not_isFinite_nan] at h; cases h
      · rw [F32.isFinite_pack_infMag] at h; cases h
    · simp_all [F32.isFinite_eq]

/-- A finite quotient has a finite dividend. -/
theorem F32.isFinite_of_div {x y : Num32} (h : F32.isFinite (F32.div x y) = true) : F32.isFinite x = true := by
  unfold F32.div at h
  split at h
  · rw [F32.not_isFinite_nan] at h; cases h
  · rename_i hn
    split at h
    · split at h
      · rw [F32.not_isFinite_nan] at h; cases h
      · rw [F32.isFinite_pack_infMag] at h; cases h
    · simp_all [F32.isFinite_eq]

/-! ### The fraction of a value that is not negative (00_scope.md R9) -/

theorem F32.isPhase_iff {x : Num32} : F32.isPhase x = true ↔ 0 ≤ F32.key x ∧ F32.key x < 0x3F800000 := by
  have hk1 : F32.key (0x3F800000 : Num32) = 0x3F800000 := by decide
  have hn1 : F32.isNaN (0x3F800000 : Num32) = false := by decide
  have hn : F32.isNaN x = false ↔ F32.mag x ≤ 0x7F800000 := by
    rw [F32.isNaN, F32.infMag, decide_eq_false_iff_not, Nat.not_lt]
  have := F32.natAbs_key x
  rw [F32.isPhase, Bool.and_eq_true, F32.le_zero_iff, F32.lt_iff, hk1, hn]
  simp only [hn1, true_and]
  omega

/-- The fraction part of a magnitude, in units, is at most that of the largest value below one: below one the magnitude is
its own fraction, from one on it is a multiple of the spacing at one. -/
theorem F32.magUnits_mod_le (m : Nat) : F32.magUnits m % 2 ^ 149 ≤ 2 ^ 149 - 2 ^ 125 := by
  rcases Nat.lt_or_ge m 0x3F800000 with hlt | hge
  · have hmono := F32.magUnits_mono (show m ≤ 0x3F7FFFFF by omega)
    have hlast : F32.magUnits 0x3F7FFFFF = 2 ^ 149 - 2 ^ 125 := by decide +kernel
    exact (Nat.mod_le _ _).trans (hlast ▸ hmono)
  · have hexp : 127 ≤ m / 2 ^ 23 := by omega
    have hdvd : 2 ^ 126 ∣ F32.magUnits m % 2 ^ 149 := by
      refine (Nat.dvd_mod_iff (pow_dvd_pow 2 (by decide))).2 ?_
      unfold F32.magUnits
      rw [if_neg (by omega)]
      exact Dvd.dvd.mul_left (pow_dvd_pow 2 (by omega)) _
    obtain ⟨q, hq⟩ := hdvd
    have hlt := Nat.mod_lt (F32.magUnits m) (show 0 < 2 ^ 149 by positivity)
    omega

theorem F32.isPhase_frac {x : Num32} (hf : F32.isFinite x = true) (h : 0 ≤ F32.key x) :
    F32.isPhase (F32.frac x) = true := by
  have hlast : F32.roundMag (2 ^ 149 - 2 ^ 125) 1 = 0x3F7FFFFF := by decide +kernel
  have hmod : (F32.units x % 2 ^ 149).toNat = F32.magUnits (F32.mag x) % 2 ^ 149 := by
    rw [F32.units_of_nonneg h]; omega
  have hround := F32.roundMag_mono Nat.one_pos (F32.magUnits_mod_le (F32.mag x))
  rw [hlast] at hround
  rw [F32.frac, if_pos hf, F32.isPhase_iff, hmod, F32.key_round]
  simp only [Bool.false_eq_true, if_false]
  omega

theorem F32.isNaN_frac_of_not_finite {x : Num32} (h : F32.isFinite x = false) : F32.isNaN (F32.frac x) = true := by
  rw [F32.frac, if_neg (by simp [h])]
  decide

end Sys2Proof

namespace Sys2Proof.Machine

/-! ### Values that are not negative, or no numbers -/

/-- Not below 0, or a NaN. -/
abbrev NonNegOrNaN (x : Num32) : Prop := F32.isNaN x = true ∨ F32.le 0 x = true

theorem nonNegOrNaN_f32_mul {x y : Num32} (hx : NonNegOrNaN x) (hy : NonNegOrNaN y) :
    NonNegOrNaN (F32.mul x y) := by
  have hnan : F32.isNaN F32.nan = true := by decide
  have hinf : F32.le 0 (F32.pack false F32.infMag) = true := by decide
  have hsign : ∀ {z : Num32}, NonNegOrNaN z → F32.isNaN z = false → F32.isZero z = false → z.msb = false := by
    intro z hz hzn hz0
    obtain hz | hz := hz
    · rw [hz] at hzn; cases hzn
    · have hk := (F32.le_zero_iff.1 hz).2
      have hm : F32.mag z ≠ 0 := by simpa [F32.isZero] using hz0
      have := F32.natAbs_key z
      exact F32.key_nonneg_msb (by omega)
  cases hxn : F32.isNaN x with
  | true => exact .inl (by simp [F32.mul, hxn, hnan])
  | false =>
  cases hyn : F32.isNaN y with
  | true => exact .inl (by simp [F32.mul, hyn, hnan])
  | false =>
  cases hi : F32.isInf x || F32.isInf y with
  | true =>
    cases hz : F32.isZero x || F32.isZero y with
    | true => exact .inl (by simp only [F32.mul, hxn, hyn, hi, hz, Bool.or_self, if_true, Bool.false_eq_true, if_false, hnan])
    | false =>
      obtain ⟨hx0, hy0⟩ := Bool.or_eq_false_iff.1 hz
      right
      simp only [F32.mul, hxn, hyn, hi, hz, hsign hx hxn hx0, hsign hy hyn hy0, Bool.or_self, if_true,
        Bool.false_eq_true, if_false, bne_self_eq_false]
      exact hinf
  | false =>
    obtain ⟨hxi, hyi⟩ := Bool.or_eq_false_iff.1 hi
    have fx : F32.isFinite x = true := by simp [F32.isFinite_eq, hxn, hxi]
    have fy : F32.isFinite y = true := by simp [F32.isFinite_eq, hyn, hyi]
    have hkx := (F32.le_zero_iff.1 (hx.resolve_left (by simp [hxn]))).2
    have hky := (F32.le_zero_iff.1 (hy.resolve_left (by simp [hyn]))).2
    refine .inr (F32.le_zero_iff.2 ⟨F32.isNaN_mul fx fy, ?_⟩)
    rw [F32.key_mul fx fy, F32.units_of_nonneg hkx, F32.units_of_nonneg hky]
    exact F32.roundKey_nonneg (by positivity) (by positivity)

theorem nonNegOrNaN_f32_div {x y : Num32} (hx : NonNegOrNaN x) (hy : F32.lt 0 y = true)
    (fy : F32.isFinite y = true) : NonNegOrNaN (F32.div x y) := by
  have hnan : F32.isNaN F32.nan = true := by decide
  have hinf : F32.le 0 (F32.pack false F32.infMag) = true := by decide
  have hyn := F32.isNaN_of_finite fy
  have hym : y.msb = false := F32.key_nonneg_msb (F32.lt_zero_iff.1 hy).2
  cases hxn : F32.isNaN x with
  | true => exact .inl (by simp [F32.div, hxn, hnan])
  | false =>
    have hx0 := hx.resolve_left (by simp [hxn])
    have hkx := (F32.le_zero_iff.1 hx0).2
    cases hxi : F32.isInf x with
    | true =>
      have hxm : x.msb = false := by
        have := F32.natAbs_key x
        have hmag : F32.mag x = 0x7F800000 := by simpa [F32.isInf, F32.infMag] using hxi
        exact F32.key_nonneg_msb (by omega)
      right
      simp only [F32.div, hxn, hyn, hxi, F32.isInf_of_finite fy, hxm, hym, Bool.or_self, if_true, Bool.false_eq_true,
        if_false, bne_self_eq_false]
      exact hinf
    | false =>
      have fx : F32.isFinite x = true := by simp [F32.isFinite_eq, hxn, hxi]
      obtain ⟨hn, hk⟩ := F32.key_div fx hy
      have hpos := F32.magUnits_pos hy
      refine .inr (F32.le_zero_iff.2 ⟨hn, ?_⟩)
      rw [hk, F32.isInf_of_finite fy, F32.units_of_nonneg hkx]
      simp only [Bool.false_eq_true, if_false]
      exact F32.roundKey_nonneg hpos (by positivity)

section
variable {c : Config Num32} (hc : c.num = F32.format)
include hc

theorem isFinite_of_flush {x : Num32} (h : F32.isFinite (c.flush x) = true) : F32.isFinite x = true := by
  have hinf : F32.infMag = 0x7F800000 := rfl
  rw [F32.isFinite_iff] at *
  obtain he | ⟨-, hs, -⟩ := key_flush_cases hc x <;> omega

theorem isFinite_of_add {x y : Num32} (h : F32.isFinite (c.add x y) = true) :
    F32.isFinite x = true ∧ F32.isFinite y = true := by
  rw [add_eq hc] at h
  exact F32.isFinite_of_add (isFinite_of_flush hc h)

theorem isFinite_of_mul {x y : Num32} (h : F32.isFinite (c.mul x y) = true) :
    F32.isFinite x = true ∧ F32.isFinite y = true := by
  rw [mul_eq hc] at h
  exact F32.isFinite_of_mul (isFinite_of_flush hc h)

theorem isFinite_of_div {x y : Num32} (h : F32.isFinite (c.div x y) = true) : F32.isFinite x = true := by
  rw [div_eq hc] at h
  exact F32.isFinite_of_div (isFinite_of_flush hc h)

theorem le_zero_flush {x : Num32} (h : F32.le 0 x = true) : F32.le 0 (c.flush x) = true := by
  obtain ⟨hn, hk⟩ := F32.le_zero_iff.1 h
  rw [F32.le_zero_iff, isNaN_flush hc]
  refine ⟨hn, ?_⟩
  obtain he | ⟨he, -⟩ := key_flush_cases hc x <;> omega

theorem nonNegOrNaN_flush {x : Num32} (h : NonNegOrNaN x) : NonNegOrNaN (c.flush x) := by
  obtain hn | h0 := h
  · exact .inl (by rwa [isNaN_flush hc])
  · exact .inr (le_zero_flush hc h0)

theorem nonNegOrNaN_mul {x y : Num32} (hx : NonNegOrNaN x) (hy : NonNegOrNaN y) : NonNegOrNaN (c.mul x y) := by
  rw [mul_eq hc]
  exact nonNegOrNaN_flush hc (nonNegOrNaN_f32_mul hx hy)

theorem nonNegOrNaN_div {x y : Num32} (hx : NonNegOrNaN x) (hy : F32.lt 0 y = true) (fy : F32.isFinite y = true) :
    NonNegOrNaN (c.div x y) := by
  rw [div_eq hc]
  exact nonNegOrNaN_flush hc (nonNegOrNaN_f32_div hx hy fy)

theorem isNaN_add {x y : Num32} (fx : F32.isFinite x = true) (fy : F32.isFinite y = true) :
    F32.isNaN (c.add x y) = false := by
  rw [add_eq hc, isNaN_flush hc]
  exact F32.isNaN_add fx fy

theorem isNaN_mul {x y : Num32} (fx : F32.isFinite x = true) (fy : F32.isFinite y = true) :
    F32.isNaN (c.mul x y) = false := by
  rw [mul_eq hc, isNaN_flush hc]
  exact F32.isNaN_mul fx fy

/-- A number that is not negative, times another. -/
theorem le_zero_mul {x y : Num32} (fx : F32.isFinite x = true) (fy : F32.isFinite y = true) (hx : F32.le 0 x = true)
    (hy : F32.le 0 y = true) : F32.le 0 (c.mul x y) = true :=
  (nonNegOrNaN_mul hc (.inr hx) (.inr hy)).resolve_left (by simp [isNaN_mul hc fx fy])

theorem le_zero_add {x y : Num32} (fx : F32.isFinite x = true) (fy : F32.isFinite y = true) (hx : F32.le 0 x = true)
    (hy : F32.le 0 y = true) : F32.le 0 (c.add x y) = true := by
  have h0 : F32.add 0 0 = 0 := by decide
  have hz : F32.key 0 = 0 := by decide
  have hn : F32.isNaN (0 : Num32) = false := by decide
  have hsum := le_add hc (x := 0) (y := 0) (by decide) fx (by decide) fy hx hy
  have hkey := (F32.le_iff.1 hsum).2.2
  rw [add_eq hc 0 0, h0, key_flush_of_normal hc (.inr hz), hz] at hkey
  exact F32.le_zero_iff.2 ⟨isNaN_add hc fx fy, hkey⟩

/-! ### The advance of a phase accumulator (41_voice_synthesis.md R146) -/

theorem isPhase_flush {x : Num32} (h : F32.isPhase x = true) : F32.isPhase (c.flush x) = true := by
  rw [F32.isPhase_iff] at *
  obtain he | ⟨he, -⟩ := key_flush_cases hc x <;> omega

/-- A phase in [0, 1) advanced by a finite amount that is not negative stays there. -/
theorem isPhase_advance {p q : Num32} (hp : F32.isPhase p = true) (hq : F32.le 0 q = true)
    (fq : F32.isFinite q = true) : F32.isPhase (c.frac (c.add p q)) = true := by
  have hmax : F32.infMag = 0x7F800000 := rfl
  have hkmax : F32.key 0x7F7FFFFF = 0x7F7FFFFF := by decide
  obtain ⟨hp0, hp1⟩ : F32.le 0 p = true ∧ F32.le p one = true := by
    obtain ⟨h0, h1⟩ := Bool.and_eq_true_iff.1 hp
    exact ⟨h0, F32.le_of_lt h1⟩
  have hqmax : F32.le q 0x7F7FFFFF = true := by
    have hf := F32.isFinite_iff.1 fq
    exact F32.le_iff.2 ⟨F32.isNaN_of_finite fq, by decide, by omega⟩
  have fp : F32.isFinite p = true := F32.isFinite_of_nonneg_of_le (by decide) hp0 hp1
  have hsum : AbsLe (c.add p q) 0x7F7FFFFF :=
    absLe_add_of hc (a := one) (b := 0x7F7FFFFF) (by decide) (by decide) (by decide +kernel)
      (absLe_of_nonneg hp0 hp1) (absLe_of_nonneg hq hqmax)
  rw [frac_eq hc]
  exact isPhase_flush hc (F32.isPhase_frac (hsum.isFinite (by decide)) (F32.le_zero_iff.1 (le_zero_add hc fp fq hp0 hq)).2)

theorem isNaN_frac_of_not_finite {x : Num32} (h : F32.isFinite x = false) : F32.isNaN (c.frac x) = true := by
  rw [frac_eq hc, isNaN_flush hc]
  exact F32.isNaN_frac_of_not_finite h

/-- Whatever is added that is not negative, the phase stays in [0, 1) or becomes a NaN (log 29). -/
theorem phaseOk_advance {p q : Num32} (hp : PhaseOk p) (hq : NonNegOrNaN q) : PhaseOk (c.frac (c.add p q)) := by
  cases hf : F32.isFinite (c.add p q) with
  | false => exact .inl (isNaN_frac_of_not_finite hc hf)
  | true =>
    obtain ⟨fp, fq⟩ := isFinite_of_add hc hf
    have hp' := hp.resolve_left (by simp [F32.isNaN_of_finite fp])
    have hq' := hq.resolve_left (by simp [F32.isNaN_of_finite fq])
    exact .inr (isPhase_advance hc hp' hq' fq)

/-! ### Negated operands, and steps towards a power of two (41_voice_synthesis.md R153, 43_master_bus.md R193, R198) -/

theorem key_add_of_neg {x x' y y' : Num32} (fx : F32.isFinite x = true) (fx' : F32.isFinite x' = true)
    (fy : F32.isFinite y = true) (fy' : F32.isFinite y' = true) (hx : F32.key x' = -F32.key x)
    (hy : F32.key y' = -F32.key y) : F32.key (c.add x' y') = -F32.key (c.add x y) := by
  rw [add_eq hc, add_eq hc]
  refine key_flush_of_neg hc ?_
  rw [F32.key_add fx fy, F32.key_add fx' fy', F32.units_neg_of_key hx, F32.units_neg_of_key hy, ← F32.roundKey_neg]
  congr 1
  omega

theorem key_mul_of_neg {k x x' : Num32} (fk : F32.isFinite k = true) (fx : F32.isFinite x = true)
    (fx' : F32.isFinite x' = true) (hx : F32.key x' = -F32.key x) : F32.key (c.mul k x') = -F32.key (c.mul k x) := by
  rw [mul_eq hc, mul_eq hc]
  refine key_flush_of_neg hc ?_
  rw [F32.key_mul fk fx, F32.key_mul fk fx', F32.units_neg_of_key hx, ← F32.roundKey_neg, mul_neg]

/-- A power of two (in units: `2^(j+24)`) whose double is a number. -/
structure PowerBound (b : Num32) : Prop where
  nonneg : 0 ≤ F32.key b
  units : ∃ j : Nat, F32.magUnits (F32.mag b) = 2 ^ (j + 24)
  double : F32.isFinite (F32.add b b) = true

omit hc in
theorem PowerBound.isFinite {b : Num32} (h : PowerBound b) : F32.isFinite b = true := (F32.isFinite_of_add h.double).1

omit hc in
/-- From `s` a step no longer than the rounded distance to `b` does not lead beyond `b`. -/
theorem PowerBound.key_add_le {s b e : Num32} (hb : PowerBound b) (hs : AbsLe s b) (fe : F32.isFinite e = true)
    (he : F32.key e ≤ F32.key (F32.sub b s)) : F32.key (F32.add s e) ≤ F32.key b := by
  have fb := hb.isFinite
  have fs := hs.isFinite fb
  obtain ⟨j, hj⟩ := hb.units
  have hub := F32.units_of_nonneg hb.nonneg
  have hus : (F32.units s).natAbs ≤ F32.magUnits (F32.mag b) := by rw [← F32.natAbs_units]; exact hs.natAbs_units_le
  have hsub : F32.key (F32.sub b s) = F32.roundKey (F32.magUnits (F32.mag b) - F32.units s) 1 := by
    rw [F32.sub, F32.key_add fb (F32.isFinite_neg fs), F32.units_neg_of_key (F32.key_neg s), hub, Int.sub_eq_add_neg]
  have hdist : 0 ≤ (F32.magUnits (F32.mag b) : Int) - F32.units s := by omega
  have hmag : F32.mag (F32.sub b s) ≤ F32.roundMag ((F32.magUnits (F32.mag b) : Int) - F32.units s).natAbs 1 := by
    rw [← F32.natAbs_key, hsub, F32.roundKey_of_nonneg Nat.one_pos hdist, Int.natAbs_natCast]
    exact inf_le_left
  have hnn : 0 ≤ F32.key (F32.sub b s) := hsub ▸ F32.roundKey_nonneg Nat.one_pos hdist
  have hue : F32.units e ≤ F32.magUnits (F32.mag (F32.sub b s)) := by
    rw [← F32.units_of_nonneg hnn]; exact F32.units_mono he
  rw [F32.key_add fs fe, ← F32.roundKey_units fb, hub]
  exact F32.roundKey_add_rounded_distance hj hus (hue.trans (by exact_mod_cast F32.magUnits_mono hmag))

end

end Sys2Proof.Machine

/-! ### A one-pole update keeps a power of two that bounds its input and its state -/

namespace Sys2Proof.Machine

section
variable {c : Config Num32} (hc : c.num = F32.format)

theorem le_of_absLe {x a : Num32} (h : AbsLe x a) : F32.le x a = true := by
  obtain ⟨hn, ha, hk⟩ := absLe_iff.1 h
  exact F32.le_iff.2 ⟨hn, ha, by omega⟩

theorem absLe_refl {x : Num32} (h : F32.le 0 x = true) : AbsLe x x :=
  absLe_of_nonneg h (F32.le_refl (F32.le_zero_iff.1 h).1)

include hc

theorem flush_eq_self {x : Num32} (h : 2 ^ 23 ≤ F32.mag x ∨ F32.mag x = 0) : c.flush x = x := by
  rw [flush_eq hc]
  split
  · rw [F32.flush]
    split
    · rw [show 0 = F32.mag x by omega, F32.pack_mag]
    · rfl
  · rfl

omit hc in
theorem le_zero_f32_sub {x y : Num32} (fx : F32.isFinite x = true) (fy : F32.isFinite y = true)
    (h : F32.le y x = true) : F32.le 0 (F32.sub x y) = true := by
  have fny := F32.isFinite_neg fy
  have hu := F32.units_mono (F32.le_iff.1 h).2.2
  refine F32.le_zero_iff.2 ⟨F32.isNaN_add fx fny, ?_⟩
  rw [F32.sub, F32.key_add fx fny, F32.units_neg_of_key (F32.key_neg y)]
  exact F32.roundKey_nonneg Nat.one_pos (by omega)

theorem le_zero_sub {x y : Num32} (fx : F32.isFinite x = true) (fy : F32.isFinite y = true) (h : F32.le y x = true) :
    F32.le 0 (c.sub x y) = true := by
  rw [sub_eq hc]
  exact le_zero_flush hc (le_zero_f32_sub fx fy h)

/-- Flushing does not lift a value above a bound that is not negative. -/
theorem key_flush_le {x : Num32} {n : Int} (h : F32.key x ≤ n) (hn : 0 ≤ n) : F32.key (c.flush x) ≤ n := by
  obtain he | ⟨he, -⟩ := key_flush_cases hc x <;> omega

/-- What is left after something not negative is taken away is not larger. -/
theorem sub_le_self {x y : Num32} (fx : F32.isFinite x = true) (fy : F32.isFinite y = true) (hx : F32.le 0 x = true)
    (hy : F32.le 0 y = true) : F32.le (c.sub x y) x = true := by
  have fny := F32.isFinite_neg fy
  have hy0 : 0 ≤ F32.units y := by rw [F32.units_of_nonneg (F32.le_zero_iff.1 hy).2]; positivity
  have hexact : F32.key (F32.sub x y) ≤ F32.key x := by
    rw [F32.sub, F32.key_add fx fny, F32.units_neg_of_key (F32.key_neg y), ← F32.roundKey_units fx]
    exact F32.roundKey_mono Nat.one_pos (by omega)
  rw [sub_eq hc, F32.le_iff, isNaN_flush hc]
  exact ⟨F32.isNaN_add fx fny, F32.isNaN_of_finite fx, key_flush_le hc hexact (F32.le_zero_iff.1 hx).2⟩

/-- One half of the bound of a one-pole update: it does not rise above a power of two that bounds its input and its state. -/
theorem key_onePole_le {b k x s : Num32} (hb : PowerBound b) (hk : Within 0 k one) (hx : AbsLe x b) (hs : AbsLe s b) :
    F32.key (onePole c k x s) ≤ F32.key b := by
  obtain ⟨hk0, hk1⟩ := hk
  have fb := hb.isFinite
  have fx := hx.isFinite fb
  have fs := hs.isFinite fb
  have fk : F32.isFinite k = true := F32.isFinite_of_nonneg_of_le (by decide) hk0 hk1
  have hunit : UnitMagnitude k := absLe_of_nonneg hk0 hk1
  have hsum : F32.le (F32.add b b) (F32.add b b) = true := F32.le_refl (F32.isNaN_add fb fb)
  have hbb : AbsLe b b := absLe_refl (F32.le_zero_iff.2 ⟨F32.isNaN_of_finite fb, hb.nonneg⟩)
  have hdist : AbsLe (c.sub b s) (F32.add b b) := absLe_sub_of hc fb fb hsum hbb hs
  have hdiff : AbsLe (c.sub x s) (F32.add b b) := absLe_sub_of hc fb fb hsum hx hs
  have fdist := hdist.isFinite hb.double
  have fdiff := hdiff.isFinite hb.double
  have hstep : AbsLe (c.mul k (c.sub x s)) (F32.add b b) := absLe_unit_mul hc hb.double hdiff hunit
  have fstep := hstep.isFinite hb.double
  have hdist0 : F32.le 0 (c.sub b s) = true := le_zero_sub hc fb fs (le_of_absLe hs)
  have hle : F32.key (c.mul k (c.sub x s)) ≤ F32.key (c.sub b s) := by
    have hmono := le_mul hc fk fdiff fdist hk0 (le_sub hc fx fb fs fs (le_of_absLe hx) (F32.le_refl (F32.isNaN_of_finite fs)))
    have hshrink := le_of_absLe (absLe_unit_mul hc fdist (absLe_refl hdist0) hunit)
    exact (F32.le_iff.1 (F32.le_trans hmono hshrink)).2.2
  have hexact : F32.key (c.sub b s) ≤ F32.key (F32.sub b s) := by
    rw [sub_eq hc]
    exact key_flush_le hc le_rfl (F32.le_zero_iff.1 (le_zero_f32_sub fb fs (le_of_absLe hs))).2
  rw [onePole, add_eq hc]
  exact key_flush_le hc (hb.key_add_le hs fstep (hle.trans hexact)) hb.nonneg

theorem key_onePole_neg {k x s : Num32} (fk : F32.isFinite k = true) (fx : F32.isFinite x = true)
    (fs : F32.isFinite s = true) (fd : F32.isFinite (c.sub x s) = true)
    (fp : F32.isFinite (c.mul k (c.sub x s)) = true) :
    F32.key (onePole c k (F32.neg x) (F32.neg s)) = -F32.key (onePole c k x s) := by
  have hdiff : F32.key (c.sub (F32.neg x) (F32.neg s)) = -F32.key (c.sub x s) := by
    rw [sub_eq_add_neg hc, sub_eq_add_neg hc]
    exact key_add_of_neg hc fx (F32.isFinite_neg fx) (F32.isFinite_neg fs) (F32.isFinite_neg (F32.isFinite_neg fs))
      (F32.key_neg x) (F32.key_neg _)
  have fd' : F32.isFinite (c.sub (F32.neg x) (F32.neg s)) = true := by
    rw [F32.isFinite_iff, hdiff, Int.natAbs_neg, ← F32.isFinite_iff]; exact fd
  have hstep := key_mul_of_neg hc fk fd fd' hdiff
  have fp' : F32.isFinite (c.mul k (c.sub (F32.neg x) (F32.neg s))) = true := by
    rw [F32.isFinite_iff, hstep, Int.natAbs_neg, ← F32.isFinite_iff]; exact fp
  exact key_add_of_neg hc fs (F32.isFinite_neg fs) fp fp' (F32.key_neg s) hstep

/-- A one-pole update with a coefficient in [0, 1] keeps every power of two that bounds its input and its state. -/
theorem absLe_onePole {b k x s : Num32} (hb : PowerBound b) (hk : Within 0 k one) (hx : AbsLe x b) (hs : AbsLe s b) :
    AbsLe (onePole c k x s) b := by
  have fb := hb.isFinite
  have fx := hx.isFinite fb
  have fs := hs.isFinite fb
  have fk : F32.isFinite k = true := F32.isFinite_of_nonneg_of_le (by decide) hk.1 hk.2
  have hsum : F32.le (F32.add b b) (F32.add b b) = true := F32.le_refl (F32.isNaN_add fb fb)
  have hdiff : AbsLe (c.sub x s) (F32.add b b) := absLe_sub_of hc fb fb hsum hx hs
  have fdiff := hdiff.isFinite hb.double
  have fstep := (absLe_unit_mul hc hb.double hdiff (absLe_of_nonneg hk.1 hk.2)).isFinite hb.double
  have hup := key_onePole_le hc hb hk hx hs
  have hdown := key_onePole_le hc hb hk (absLe_neg hx) (absLe_neg hs)
  rw [key_onePole_neg hc fk fx fs fdiff fstep] at hdown
  exact absLe_iff.2 ⟨isNaN_add hc fs fstep, F32.isNaN_of_finite fb, by omega⟩

end

theorem powerBound_one : PowerBound one := ⟨by decide, ⟨125, by decide +kernel⟩, by decide +kernel⟩

/-- 32, the number of voices. -/
theorem powerBound_thirtyTwo : PowerBound 0x42000000 := ⟨by decide, ⟨130, by decide +kernel⟩, by decide +kernel⟩

/-- 2^126, the bound of `Moderate`. -/
theorem powerBound_moderate : PowerBound 0x7E800000 := ⟨by decide, ⟨251, by decide +kernel⟩, by decide +kernel⟩

end Sys2Proof.Machine

/-! ### `min`, `max`, naturals and literals -/

namespace Sys2Proof

theorem F32.le_max_left {x y : Num32} (hx : F32.isNaN x = false) (hy : F32.isNaN y = false) :
    F32.le x (F32.max x y) = true := by
  rcases F32.le_or_lt hx hy with h | h
  · rwa [F32.max_of_le h]
  · rw [F32.max_of_lt h]; exact F32.le_refl hx

theorem F32.max_eq_or {x y : Num32} (hx : F32.isNaN x = false) (hy : F32.isNaN y = false) :
    F32.max x y = x ∨ F32.max x y = y := by
  rcases F32.le_or_lt hx hy with h | h
  · exact .inr (F32.max_of_le h)
  · exact .inl (F32.max_of_lt h)

theorem F32.lt_of_lt_of_le {x y z : Num32} (h : F32.lt x y = true) (h' : F32.le y z = true) : F32.lt x z = true := by
  obtain ⟨hx, -, hxy⟩ := F32.lt_iff.1 h
  obtain ⟨-, hz, hyz⟩ := F32.le_iff.1 h'
  exact F32.lt_iff.2 ⟨hx, hz, by omega⟩

/-- The smaller of 1 and a number that is not negative lies in [0, 1]. -/
theorem F32.inUnit_min_one {x : Num32} (h : F32.le 0 x = true) : F32.inUnit (F32.min Machine.one x) = true := by
  obtain ⟨hn, -⟩ := F32.le_zero_iff.1 h
  rcases F32.le_or_lt (show F32.isNaN Machine.one = false by decide) hn with hle | hlt
  · rw [F32.min_of_le hle]; decide
  · rw [F32.min_of_lt hlt]; exact Machine.inUnit_iff_within.2 ⟨h, F32.le_of_lt hlt⟩

theorem F32.ofNat_mono {m n : Nat} (h : m ≤ n) : F32.le (F32.ofNat m) (F32.ofNat n) = true := by
  refine F32.le_iff.2 ⟨F32.isNaN_round _ _ _, F32.isNaN_round _ _ _, ?_⟩
  rw [F32.ofNat, F32.ofNat, F32.key_round_eq_roundKey _ _ Nat.one_pos, F32.key_round_eq_roundKey _ _ Nat.one_pos]
  simp only [Bool.false_eq_true, if_false]
  exact F32.roundKey_mono Nat.one_pos (by exact_mod_cast Nat.mul_le_mul_right _ h)

/-- A product is a number when one factor is finite and positive and the other one is a number. -/
theorem F32.isNaN_mul_of_pos {x y : Num32} (hx : F32.isNaN x = false) (fy : F32.isFinite y = true)
    (hy : F32.lt 0 y = true) : F32.isNaN (F32.mul x y) = false := by
  cases hxi : F32.isInf x with
  | false => exact F32.isNaN_mul (by simp [F32.isFinite_eq, hx, hxi]) fy
  | true =>
    have hmag : F32.mag x = 0x7F800000 := by simpa [F32.isInf, F32.infMag] using hxi
    have hx0 : F32.isZero x = false := by simp [F32.isZero, hmag]
    have hy0 : F32.isZero y = false := by
      have := F32.natAbs_key y
      have := (F32.lt_zero_iff.1 hy).2
      simp only [F32.isZero, beq_eq_false_iff_ne]
      omega
    have hmul : F32.mul x y = F32.pack (x.msb != y.msb) F32.infMag := by
      simp [F32.mul, hx, F32.isNaN_of_finite fy, hxi, hx0, hy0]
    rw [hmul]
    cases x.msb != y.msb <;> decide

end Sys2Proof

namespace Sys2Proof.Machine

section
variable {c : Config Num32} (hc : c.num = F32.format)
include hc

theorem ofNat_mono {m n : Nat} (h : m ≤ n) : F32.le (c.ofNat m) (c.ofNat n) = true := by
  obtain ⟨hm, hn, hk⟩ := F32.le_iff.1 (F32.ofNat_mono h)
  rw [ofNat_eq hc, ofNat_eq hc, F32.le_iff, isNaN_flush hc, isNaN_flush hc]
  exact ⟨hm, hn, key_flush_mono hc hk⟩

theorem ofNat_zero : c.ofNat 0 = 0 := by
  rw [ofNat_eq hc, show F32.ofNat 0 = 0 by decide +kernel, flush_eq_self hc (.inr (by decide))]

theorem le_zero_ofNat (n : Nat) : F32.le 0 (c.ofNat n) = true := by
  simpa only [ofNat_zero hc] using ofNat_mono hc (Nat.zero_le n)

/-- A 32-bit word is at most 2^32 as a number. -/
theorem ofNat_word_le (x : BitVec 32) : F32.le (c.ofNat x.toNat) 0x4F800000 = true := by
  have hmax : c.ofNat (2 ^ 32) = 0x4F800000 := by
    rw [ofNat_eq hc, show F32.ofNat (2 ^ 32) = 0x4F800000 by decide +kernel, flush_eq_self hc (.inl (by decide))]
  simpa only [hmax] using ofNat_mono hc x.isLt.le

theorem isFinite_ofNat_word (x : BitVec 32) : F32.isFinite (c.ofNat x.toNat) = true :=
  F32.isFinite_of_nonneg_of_le (by decide) (le_zero_ofNat hc _) (ofNat_word_le hc x)

/-- A rate with its floor is at least 8000 as a number (10_state.md R40). -/
theorem le_ofNat_rate {sr : BitVec 32} (h : 8000 ≤ sr.toNat) : F32.le 0x45FA0000 (c.ofNat sr.toNat) = true := by
  have hmin : c.ofNat 8000 = 0x45FA0000 := by
    rw [ofNat_eq hc, show F32.ofNat 8000 = 0x45FA0000 by decide +kernel, flush_eq_self hc (.inl (by decide))]
  simpa only [hmin] using ofNat_mono hc h

theorem lt_zero_ofNat_rate {sr : BitVec 32} (h : 8000 ≤ sr.toNat) : F32.lt 0 (c.ofNat sr.toNat) = true :=
  F32.lt_of_lt_of_le (by decide) (le_ofNat_rate hc h)

/-! ### Noise and oscillator samples (41_voice_synthesis.md R146, R147) -/

/-- A noise sample has magnitude at most 1: the scaled state lies in [0, 2]. -/
theorem unitMagnitude_noiseSample (n : BitVec 32) : UnitMagnitude (noiseSample c n) := by
  have hlit : c.lit 1 (2 ^ 31) = 0x30000000 := by rw [lit_eq hc]; decide +kernel
  have fn := isFinite_ofNat_word hc n
  have hscaled : AbsLe (c.mul (c.ofNat n.toNat) (c.lit 1 (2 ^ 31))) 0x40000000 := by
    rw [hlit]
    exact absLe_mul_of hc (a := 0x4F800000) (b := 0x30000000) (by decide) (by decide) (by decide +kernel)
      (absLe_of_nonneg (le_zero_ofNat hc _) (ofNat_word_le hc n)) (by decide)
  have h0 : F32.le 0 (c.mul (c.ofNat n.toNat) (c.lit 1 (2 ^ 31))) = true := by
    rw [hlit]
    exact le_zero_mul hc fn (by decide) (le_zero_ofNat hc _) (by decide)
  have fs := hscaled.isFinite (by decide)
  have hlow := le_sub hc (x := 0) (y := one) (y' := one) (by decide) fs (by decide) (by decide) h0 (by decide)
  have hhigh := le_sub hc (x' := 0x40000000) (y := one) (y' := one) fs (by decide) (by decide) (by decide)
    (le_of_absLe hscaled) (by decide)
  have elow : c.sub 0 one = 0xBF800000 := by
    rw [sub_eq hc, show F32.sub 0 one = 0xBF800000 by decide +kernel, flush_eq_self hc (.inl (by decide))]
  have ehigh : c.sub 0x40000000 one = one := by
    rw [sub_eq hc, show F32.sub 0x40000000 one = one by decide +kernel, flush_eq_self hc (.inl (by decide))]
  rw [elow] at hlow
  rw [ehigh] at hhigh
  obtain ⟨-, hn, klow⟩ := F32.le_iff.1 hlow
  obtain ⟨-, hn1, khigh⟩ := F32.le_iff.1 hhigh
  have k1 : F32.key one = 0x3F800000 := by decide
  have k2 : F32.key 0xBF800000 = -0x3F800000 := by decide
  rw [noiseSample, one_eq hc]
  exact absLe_iff.2 ⟨hn, hn1, by omega⟩

theorem twoPi_eq : c.num.twoPi = 0x40C90FDB := by rw [hc]; decide +kernel

end

theorem unitMagnitude_osc {c : Config Num32} (hw : ConfigWf c) (sr : BitVec 32) (j : Fin 3) (f : Num32)
    {v : Voice Num32} (hp : F32.isPhase v.ph[j] = true) : UnitMagnitude (osc c sr j f v).1 := by
  obtain ⟨h0, h1⟩ := Bool.and_eq_true_iff.1 hp
  have hangle : AbsLe (c.mul c.num.twoPi v.ph[j]) 0x40C90FDB := by
    rw [twoPi_eq hw.binary32]
    exact absLe_mul_unit hw.binary32 (by decide) (by decide) (absLe_of_nonneg h0 (F32.le_of_lt h1))
  exact hw.sin_bound _ (hangle.isFinite (by decide))

theorem unitMagnitude_nz {c : Config Num32} (hc : c.num = F32.format) (v : Voice Num32) : UnitMagnitude (nz c v).1 :=
  unitMagnitude_noiseSample hc _

/-! ### Envelopes (41_voice_synthesis.md R149, R150, 42_drum_generators.md R177) -/

/-- A time at which no envelope overflows: not negative, and finite in units of `EPS_TAU`. -/
structure EnvelopeTime (c : Config Num32) (t : Num32) : Prop where
  nonneg : F32.le 0 t = true
  quotient : F32.isFinite (c.div t c.epsTau) = true

section
variable {c : Config Num32} (hw : ConfigWf c) {t : Num32}
include hw

theorem EnvelopeTime.isFinite (ht : EnvelopeTime c t) : F32.isFinite t = true :=
  isFinite_of_div hw.binary32 ht.quotient

/-- An earlier time is one as well. -/
theorem EnvelopeTime.of_le (ht : EnvelopeTime c t) {t' : Num32} (h0 : F32.le 0 t' = true) (h : F32.le t' t = true) :
    EnvelopeTime c t' := by
  obtain ⟨-, -, fe, he⟩ := hw.floors
  have fq := ht.quotient
  obtain ⟨hlow, hhigh⟩ := le_div hw.binary32 (ht.isFinite hw) fe h0 h he (F32.le_refl (F32.isNaN_of_finite fe))
  exact ⟨h0, F32.isFinite_of_nonneg_of_le fq hlow hhigh⟩

theorem dec_eq (t tau : Num32) : dec c t tau = c.exp (F32.neg (c.div t (F32.max c.epsTau tau))) := by
  rw [dec, hw.binary32]; rfl

/-- The exponential envelope lies in [0, 1]: its exponent is finite and not positive. -/
theorem inUnit_dec (ht : EnvelopeTime c t) {tau : Num32} (htau : F32.isNaN tau = false) :
    F32.inUnit (dec c t tau) = true := by
  obtain ⟨-, -, fe, he⟩ := hw.floors
  have ft := ht.isFinite hw
  obtain ⟨hlow, hhigh⟩ := le_div hw.binary32 ft fe ht.nonneg (F32.le_refl (F32.isNaN_of_finite ft)) he
    (F32.le_max_left (F32.isNaN_of_finite fe) htau)
  have fq := F32.isFinite_of_nonneg_of_le ht.quotient hlow hhigh
  have hneg : F32.le (F32.neg (c.div t (F32.max c.epsTau tau))) 0 = true := by
    obtain ⟨hn, hk⟩ := F32.le_zero_iff.1 hlow
    have h0 : F32.key 0 = 0 := by decide
    refine F32.le_iff.2 ⟨by rwa [isNaN_neg], by decide, ?_⟩
    rw [F32.key_neg]
    omega
  rw [dec_eq hw]
  exact hw.exp_range _ (F32.isFinite_neg fq) hneg

theorem unitMagnitude_dec (ht : EnvelopeTime c t) {tau : Num32} (htau : F32.isNaN tau = false) :
    UnitMagnitude (dec c t tau) :=
  unitMagnitude_of_inUnit (inUnit_dec hw ht htau)

/-- The attack ramp lies in [0, 1]. -/
theorem inUnit_att (ft : F32.isFinite t = true) (h0 : F32.le 0 t = true) {ramp : Num32} (hramp : IsPositive ramp) :
    F32.inUnit (att c t ramp) = true := by
  obtain ⟨framp, hramp0⟩ := hramp
  have hq := (le_div hw.binary32 ft framp h0 (F32.le_refl (F32.isNaN_of_finite ft)) hramp0
    (F32.le_refl (F32.isNaN_of_finite framp))).1
  have hatt : att c t ramp = F32.min one (c.div t ramp) := by
    rw [att, one_eq hw.binary32, hw.binary32]; rfl
  rw [hatt]
  exact F32.inUnit_min_one hq

/-- A burst adds at most 1 to the clap envelope (R177); its age is not more than the voice's. -/
theorem addBurst_range (ht : EnvelopeTime c t) {decay onset e a b : Num32} (honset : NonNegOrNaN (c.mul onset decay))
    (fa : F32.isFinite a = true) (hab : F32.le (F32.add a one) b = true) (hle : F32.le a b = true)
    (he0 : F32.le 0 e = true) (he : F32.le e a = true) :
    F32.le 0 (addBurst c t decay onset e) = true ∧ F32.le (addBurst c t decay onset e) b = true := by
  have hc := hw.binary32
  have hcmp : c.num.le = F32.le := by rw [hc]; rfl
  rw [addBurst, hcmp]
  split
  · rename_i hreached
    have hs0 := honset.resolve_left (by simp [(F32.le_iff.1 hreached).1])
    have ft := ht.isFinite hw
    have fs := F32.isFinite_of_nonneg_of_le ft hs0 hreached
    have hage := ht.of_le hw (le_zero_sub hc ft fs hreached) (sub_le_self hc ft fs ht.nonneg hs0)
    have htau : IsPositive c.rom.clBurstTau := hw.rom.positives _ (by simp)
    obtain ⟨hd0, hd1⟩ := inUnit_iff_within.1 (inUnit_dec hw hage (F32.isNaN_of_finite htau.1))
    have fe := F32.isFinite_of_nonneg_of_le fa he0 he
    have fd := F32.isFinite_of_nonneg_of_le (by decide) hd0 hd1
    exact ⟨le_zero_add hc fe fd he0 hd0,
      le_of_absLe (absLe_add_of hc fa (by decide) hab (absLe_of_nonneg he0 he) (absLe_of_nonneg hd0 hd1))⟩
  · exact ⟨he0, F32.le_trans he hle⟩

/-- The clap envelope lies in [0, 1]: three bursts add up to 3 at most, and the limit is 1. -/
theorem inUnit_clapEnvelope (ht : EnvelopeTime c t) {decay : Num32} (hdecay : F32.le 0 decay = true) :
    F32.inUnit (clapEnvelope c t decay) = true := by
  have hc := hw.binary32
  obtain ⟨h0, h1, h2, hlimit⟩ := hw.rom.exact_bursts
  have honset : ∀ {onset : Num32}, F32.le 0 onset = true → NonNegOrNaN (c.mul onset decay) :=
    fun h => nonNegOrNaN_mul hc (.inr h) (.inr hdecay)
  obtain ⟨ha0, ha1⟩ := addBurst_range hw ht (decay := decay) (onset := c.rom.clOn0) (e := 0) (a := 0) (b := one)
    (honset (by rw [h0]; decide)) (by decide) (by decide +kernel) (by decide) (by decide) (by decide)
  obtain ⟨hb0, hb1⟩ := addBurst_range hw ht (decay := decay) (onset := c.rom.clOn1) (b := 0x40000000)
    (honset (by rw [h1]; decide +kernel)) (by decide) (by decide +kernel) (by decide) ha0 ha1
  obtain ⟨hs0, -⟩ := addBurst_range hw ht (decay := decay) (onset := c.rom.clOn2) (b := 0x40400000)
    (honset (by rw [h2]; decide +kernel)) (by decide) (by decide +kernel) (by decide) hb0 hb1
  have henv : clapEnvelope c t decay = F32.min one (addBurst c t decay c.rom.clOn2 (addBurst c t decay c.rom.clOn1
      (addBurst c t decay c.rom.clOn0 0))) := by
    rw [clapEnvelope, hlimit, zero_eq hc, hc]; rfl
  rw [henv]
  exact F32.inUnit_min_one hs0

end

end Sys2Proof.Machine

namespace Sys2Proof.Machine

/-! ### Quotients of signed values, and differences -/

section
variable {c : Config Num32} (hc : c.num = F32.format) {x y a b d : Num32}
include hc

theorem absLe_div_of (fa : F32.isFinite a = true) (fy : F32.isFinite y = true) (hy : F32.lt 0 y = true)
    (hx : AbsLe x a) (hd : AbsLe (F32.div a y) d) : AbsLe (c.div x y) d := by
  have fx := hx.isFinite fa
  obtain ⟨hn, hk⟩ := F32.key_div fx hy
  obtain ⟨-, hk'⟩ := F32.key_div fa hy
  have hpos := F32.magUnits_pos hy
  rw [F32.isInf_of_finite fy] at hk hk'
  simp only [Bool.false_eq_true, if_false] at hk hk'
  have hle := hx.natAbs_units_le
  have hnn : 0 ≤ F32.units a := by rw [F32.units_of_nonneg hx.bound_nonneg]; positivity
  have hround := F32.natAbs_roundKey_le (z := F32.units x * 2 ^ 149) (n := (F32.units a * 2 ^ 149).natAbs) hpos
    (by rw [Int.natAbs_mul, Int.natAbs_mul]; exact Nat.mul_le_mul_right _ hle)
  rw [Int.natAbs_of_nonneg (show 0 ≤ F32.units a * 2 ^ 149 by positivity), ← hk, ← hk'] at hround
  obtain ⟨-, hdn, hdk⟩ := absLe_iff.1 hd
  rw [div_eq hc]
  exact absLe_flush_left hc (absLe_iff.2 ⟨hn, hdn, by omega⟩)

/-- A quotient under a bound that is given as a value. -/
theorem le_div_of (fa : F32.isFinite a = true) (fb : F32.isFinite b = true) (hx : F32.le 0 x = true)
    (hxa : F32.le x a = true) (hb : F32.lt 0 b = true) (hby : F32.le b y = true) (hd : AbsLe (F32.div a b) d) :
    F32.le 0 (c.div x y) = true ∧ F32.le (c.div x y) d = true := by
  obtain ⟨h0, hle⟩ := le_div hc fa fb hx hxa hb hby
  have hconst : AbsLe (c.div a b) d := by rw [div_eq hc]; exact absLe_flush_left hc hd
  exact ⟨h0, F32.le_trans hle (le_of_absLe hconst)⟩

/-- The difference to something larger is not larger than that. -/
theorem absLe_sub_of_le (fy : F32.isFinite y = true) (hx : F32.le 0 x = true) (h : F32.le x y = true) :
    AbsLe (c.sub x y) y := by
  have fx := F32.isFinite_of_nonneg_of_le fy hx h
  have fny := F32.isFinite_neg fy
  have hu := F32.units_mono (F32.le_iff.1 h).2.2
  have hkx := (F32.le_zero_iff.1 hx).2
  have hky : 0 ≤ F32.key y := hkx.trans (F32.le_iff.1 h).2.2
  have hux := F32.units_of_nonneg hkx
  have huy := F32.units_of_nonneg hky
  rw [sub_eq hc]
  refine absLe_flush_left hc (absLe_iff.2 ⟨F32.isNaN_add fx fny, F32.isNaN_of_finite fy, ?_⟩)
  rw [F32.sub, F32.key_add fx fny, F32.units_neg_of_key (F32.key_neg y), ← F32.roundKey_units fy, huy]
  exact F32.natAbs_roundKey_le Nat.one_pos (by omega)

/-- Something positive and something that is not larger in magnitude add up to nothing negative. -/
theorem le_zero_add_of_absLe (fx : F32.isFinite x = true) (hy : AbsLe y x) : F32.le 0 (c.add x y) = true := by
  have fy := hy.isFinite fx
  have hle := hy.natAbs_units_le
  have hux := F32.units_of_nonneg hy.bound_nonneg
  rw [add_eq hc]
  refine le_zero_flush hc (F32.le_zero_iff.2 ⟨F32.isNaN_add fx fy, ?_⟩)
  rw [F32.key_add fx fy]
  exact F32.roundKey_nonneg Nat.one_pos (by omega)

end

theorem absLe_of_between {x a : Num32} (h : F32.le (F32.neg a) x = true) (h' : F32.le x a = true) : AbsLe x a := by
  obtain ⟨-, hx, hk⟩ := F32.le_iff.1 h
  obtain ⟨-, ha, hk'⟩ := F32.le_iff.1 h'
  rw [F32.key_neg] at hk
  exact absLe_iff.2 ⟨hx, ha, by omega⟩

/-! ### Configurations whose envelopes and tune multipliers have finite operands -/

/-- The part of `Tame` that this machine's configuration has as well: tune ranges within 24 semitones, and `EPS_TAU` at least
2^-64. -/
structure Steady (c : Config Num32) : Prop where
  wf : ConfigWf c
  tuning : ∀ id ∈ gTune :: drumTypes.map dTune,
    Within (F32.litNeg 24 1) (c.pspec id).lo (F32.lit 24 1) ∧ Within (F32.litNeg 24 1) (c.pspec id).hi (F32.lit 24 1)
  tau : F32.le 0x1F800000 c.epsTau = true

theorem Tame.steady {c : Config Num32} (h : Tame c) (hw : ConfigWf c) : Steady c := ⟨hw, h.tuning, h.tau⟩

theorem pspec_tuning : ∀ id ∈ gTune :: drumTypes.map dTune,
    Within (F32.litNeg 24 1) (pspecDefault id).lo (F32.lit 24 1) ∧
      Within (F32.litNeg 24 1) (pspecDefault id).hi (F32.lit 24 1) := by decide +kernel

theorem cfg_steady : Steady cfg where
  wf := cfg_wf
  tuning := pspec_tuning
  tau := show F32.le 0x1F800000 (F32.lit 1 10000) = true by decide +kernel

theorem mem_drumTypes (k : DrumType) : k ∈ drumTypes := by cases k <;> decide

/-! ### What a voice reads off the snapshot and its age (41_voice_synthesis.md R140 to R142) -/

theorem isFinite_regRead {c : Config Num32} (hw : ConfigWf c) {snap : Bank Num32} (hb : BankOk c snap) (id : Fin 46) :
    F32.isFinite (regRead snap id) = true := by
  obtain ⟨hlo, hhi, -⟩ := hw.pspec_order id
  exact F32.isFinite_of_le hlo hhi (hb id).1 (hb id).2

theorem lt_zero_decayOf {c : Config Num32} (hw : ConfigWf c) {snap : Bank Num32} (hb : BankOk c snap) (k : DrumType) :
    F32.lt 0 (decayOf c snap k) = true := by
  obtain ⟨⟨feps, heps⟩, -, -⟩ := hw.floors
  have hprod := isNaN_mul hw.binary32 (isFinite_regRead hw hb gDecay) (isFinite_regRead hw hb (dDecay k))
  rw [decayOf, show c.num.max = F32.max by rw [hw.binary32]; rfl]
  exact F32.lt_of_lt_of_le heps (F32.le_max_left (F32.isNaN_of_finite feps) hprod)

theorem isPositive_hatLenOf {c : Config Num32} (hw : ConfigWf c) {snap : Bank Num32} (hb : BankOk c snap) :
    IsPositive (hatLenOf c snap) := by
  obtain ⟨-, ⟨feps, heps⟩, -⟩ := hw.floors
  have freg := isFinite_regRead hw hb gHatLen
  have heps_n := F32.isNaN_of_finite feps
  have hreg_n := F32.isNaN_of_finite freg
  rw [hatLenOf, show c.num.max = F32.max by rw [hw.binary32]; rfl]
  refine ⟨?_, F32.lt_of_lt_of_le heps (F32.le_max_left heps_n hreg_n)⟩
  obtain he | he := F32.max_eq_or heps_n hreg_n <;> rwa [he]

section
variable {c : Config Num32} (hs : Steady c)
include hs

/-- The age of a voice in seconds is at most 2^32 / 8000, which is below 2^20, and a quotient by `EPS_TAU` at most 2^84, so no
envelope overflows at it. -/
theorem envelopeTime_elapsed {sr : BitVec 32} (hsr : 8000 ≤ sr.toNat) (v : Voice Num32) :
    EnvelopeTime c (elapsed c sr v) := by
  have hc := hs.wf.binary32
  obtain ⟨h0, ht⟩ := le_div_of hc (a := 0x4F800000) (b := 0x45FA0000) (d := 0x49800000) (by decide) (by decide)
    (le_zero_ofNat hc v.sidx.toNat) (ofNat_word_le hc v.sidx) (by decide) (le_ofNat_rate hc hsr) (by decide +kernel)
  obtain ⟨hq0, hq⟩ := le_div_of hc (a := 0x49800000) (b := 0x1F800000) (d := 0x69800000) (by decide) (by decide)
    h0 ht (by decide) hs.tau (by decide +kernel)
  exact ⟨h0, F32.isFinite_of_nonneg_of_le (by decide) hq0 hq⟩

/-- A tune register lies within 24 semitones. -/
theorem absLe_tuneReg {snap : Bank Num32} (hb : BankOk c snap) {id : Fin 46} (hid : id ∈ gTune :: drumTypes.map dTune) :
    AbsLe (regRead snap id) 0x41C00000 := by
  have hneg : F32.litNeg 24 1 = F32.neg 0x41C00000 := by decide +kernel
  have hpos : F32.lit 24 1 = 0x41C00000 := by decide +kernel
  obtain ⟨⟨hlo, -⟩, -, hhi⟩ := hs.tuning id hid
  rw [hneg] at hlo
  rw [hpos] at hhi
  exact absLe_of_between (F32.le_trans hlo (hb id).1) (F32.le_trans (hb id).2 hhi)

/-- The operand of `exp2` in the tune multiplier lies in [-4, 4]. -/
theorem absLe_tuneExponent {snap : Bank Num32} (hb : BankOk c snap) (k : DrumType) :
    AbsLe (c.div (c.add (regRead snap gTune) (regRead snap (dTune k))) (c.lit 12 1)) 0x40800000 := by
  have hc := hs.wf.binary32
  have hsum : AbsLe (c.add (regRead snap gTune) (regRead snap (dTune k))) 0x42400000 :=
    absLe_add_of hc (a := 0x41C00000) (b := 0x41C00000) (by decide) (by decide) (by decide +kernel)
      (absLe_tuneReg hs hb List.mem_cons_self)
      (absLe_tuneReg hs hb (List.mem_cons_of_mem _ (List.mem_map_of_mem (mem_drumTypes k))))
  rw [lit_eq hc]
  exact absLe_div_of hc (by decide) (by decide +kernel) (by decide +kernel) hsum (by decide +kernel)

theorem lt_zero_tuneMulOf {snap : Bank Num32} (hb : BankOk c snap) (k : DrumType) :
    F32.lt 0 (tuneMulOf c snap k) = true :=
  hs.wf.exp2_pos _ ((absLe_tuneExponent hs hb k).isFinite (by decide))

end

theorem atMostMega_tuneMulOf {c : Config Num32} (hw : ConfigWf c) (ht : Tame c) {snap : Bank Num32} (hb : BankOk c snap)
    (k : DrumType) : AtMostMega (tuneMulOf c snap k) := by
  have hexp := absLe_tuneExponent (ht.steady hw) hb k
  obtain ⟨hn, -, hk⟩ := absLe_iff.1 hexp
  have hlow : F32.key (F32.litNeg 4 1) = -F32.key 0x40800000 := by decide +kernel
  have hhigh : F32.lit 4 1 = 0x40800000 := by decide +kernel
  refine ht.exp2 _ ⟨F32.le_iff.2 ⟨by decide +kernel, hn, by omega⟩, ?_⟩
  rw [hhigh]
  exact le_of_absLe hexp

/-! ### The frequencies of a generator (42_drum_generators.md R171 to R178, reference datapaths: log 27) -/

/-- A frequency that falls or rises from `hi` to `lo` with an envelope (R171, R172). -/
def sweep {N : Type} (c : Config N) (lo hi env : N) : N := c.add lo (c.mul (c.sub hi lo) env)

/-- The frequencies that a generator gives its oscillators 0, 1, 2, as far as it uses them. -/
def genFreqs {N : Type} (c : Config N) (k : DrumType) (t tuneMul : N) : List N :=
  let r := c.rom
  match k with
  | .kick =>
    let f := c.mul (sweep c r.kFLo r.kFHi (dec c t r.kSweepTau)) tuneMul
    [f, c.mul (c.lit 1 2) f]
  | .snare => [c.mul (sweep c r.sFLo r.sFHi (dec c t r.sSweepTau)) tuneMul]
  | .closedHat => [c.mul r.chF0 tuneMul, c.mul r.chRatio (c.mul r.chF0 tuneMul)]
  | .openHat => [c.mul r.ohF0 tuneMul, c.mul r.ohR1 (c.mul r.ohF0 tuneMul), c.mul r.ohR2 (c.mul r.ohF0 tuneMul)]
  | .crash => [c.mul r.crF0 tuneMul, c.mul r.crF1 tuneMul, c.mul r.crF2 tuneMul]
  | .ride => [c.mul r.rdPingF tuneMul, c.mul r.rdTailF tuneMul]
  | .clap => []
  | .rim => [c.mul r.rmF0 tuneMul, c.mul r.rmRatio (c.mul r.rmF0 tuneMul)]

/-- A phase after one advance by the frequency `f` (R146). -/
def advance {N : Type} (c : Config N) (sr : BitVec 32) (f p : N) : N := c.frac (c.add p (c.div f (c.ofNat sr.toNat)))

theorem osc_ph {N : Type} (c : Config N) (sr : BitVec 32) (i j : Fin 3) (f : N) (v : Voice N) :
    (osc c sr i f v).2.ph[j] = if i = j then advance c sr f v.ph[j] else v.ph[j] := by
  simp only [osc, advance, Fin.getElem_fin, Vector.getElem_set, Fin.ext_iff]
  split
  · rename_i h; simp only [h]
  · rfl

/-- A generator advances each phase for which it has a frequency once, and no other. -/
theorem gen_ph {N : Type} (c : Config N) (sr : BitVec 32) (k : DrumType) (t tuneMul decay hl : N) (v : Voice N) (j : Fin 3) :
    (gen c sr k t tuneMul decay hl v).2.ph[j] =
      ((genFreqs c k t tuneMul)[j.val]?).elim v.ph[j] fun f => advance c sr f v.ph[j] := by
  cases k <;> fin_cases j <;>
    simp [gen, genKick, genSnare, genClosedHat, genOpenHat, genCrash, genRide, genClap, genRim, genFreqs, sweep, nz, osc,
      advance]

end Sys2Proof.Machine

/-! ### Frequencies are not negative, and bounded where the constants are (42_drum_generators.md R170; log 29) -/

namespace Sys2Proof.Machine

theorem le_zero_of_isPositive {x : Num32} (h : IsPositive x) : F32.le 0 x = true := F32.le_of_lt h.2

theorem RomWf.isPositive {r : Rom Num32} (h : RomWf r) {x : Num32} (hx : x ∈ [r.kFHi, r.kFLo, r.sFHi, r.sFLo, r.chF0,
    r.chRatio, r.ohF0, r.ohR1, r.ohR2, r.crF0, r.crF1, r.crF2, r.rdPingF, r.rdTailF, r.rmF0, r.rmRatio]) :
    IsPositive x := by
  simp only [List.mem_cons, List.not_mem_nil, or_false] at hx
  rcases hx with rfl | rfl | rfl | rfl | rfl | rfl | rfl | rfl | rfl | rfl | rfl | rfl | rfl | rfl | rfl | rfl <;>
    exact h.positives _ (by simp)

section
variable {c : Config Num32} (hc : c.num = F32.format) {lo hi env : Num32}
include hc

/-- A sweep between two positive frequencies is never negative, upwards or downwards. -/
theorem le_zero_sweep (hlo : IsPositive lo) (hhi : IsPositive hi) (henv : F32.inUnit env = true) :
    F32.le 0 (sweep c lo hi env) = true := by
  obtain ⟨he0, he1⟩ := inUnit_iff_within.1 henv
  have fe := F32.isFinite_of_nonneg_of_le (by decide) he0 he1
  have hunit := unitMagnitude_of_inUnit henv
  rcases F32.le_or_lt (F32.isNaN_of_finite hlo.1) (F32.isNaN_of_finite hhi.1) with hup | hdown
  · have hd0 := le_zero_sub hc hhi.1 hlo.1 hup
    have fd := F32.isFinite_of_nonneg_of_le hhi.1 hd0
      (sub_le_self hc hhi.1 hlo.1 (le_zero_of_isPositive hhi) (le_zero_of_isPositive hlo))
    have hp0 := le_zero_mul hc fd fe hd0 he0
    exact le_zero_add hc hlo.1 ((absLe_mul_unit hc fd (absLe_refl hd0) hunit).isFinite fd)
      (le_zero_of_isPositive hlo) hp0
  · have hd := absLe_sub_of_le hc hlo.1 (le_zero_of_isPositive hhi) (F32.le_of_lt hdown)
    exact le_zero_add_of_absLe hc hlo.1 (absLe_mul_unit hc hlo.1 hd hunit)

/-- A sweep between frequencies up to 2^20 stays within 2^22: their difference is within 2^21. -/
theorem absLe_sweep (hlo : AbsLe lo 0x49800000) (hhi : AbsLe hi 0x49800000) (henv : F32.inUnit env = true) :
    AbsLe (sweep c lo hi env) 0x4A800000 := by
  have hdiff : AbsLe (c.sub hi lo) 0x4A000000 := absLe_sub_of hc (by decide) (by decide) (by decide +kernel) hhi hlo
  have hpart := absLe_mul_unit hc (by decide) hdiff (unitMagnitude_of_inUnit henv)
  exact absLe_add_of hc (by decide) (by decide) (by decide +kernel) hlo hpart

end

section
variable {c : Config Num32} (hw : ConfigWf c) {t tuneMul : Num32} (ht : EnvelopeTime c t)
include hw ht

/-- No frequency of a generator is negative; one that overflows may be an infinity or a NaN. -/
theorem nonNegOrNaN_genFreqs (hm : NonNegOrNaN tuneMul) (k : DrumType) : ∀ f ∈ genFreqs c k t tuneMul, NonNegOrNaN f := by
  have hc := hw.binary32
  have hrom := fun {x} hx => (hw.rom.isPositive (x := x) hx)
  have hbase : ∀ {x}, IsPositive x → NonNegOrNaN (c.mul x tuneMul) :=
    fun hx => nonNegOrNaN_mul hc (.inr (le_zero_of_isPositive hx)) hm
  have hratio : ∀ {x y}, IsPositive x → NonNegOrNaN y → NonNegOrNaN (c.mul x y) :=
    fun hx hy => nonNegOrNaN_mul hc (.inr (le_zero_of_isPositive hx)) hy
  have hsweep : ∀ {lo hi tau}, IsPositive lo → IsPositive hi → IsPositive tau →
      NonNegOrNaN (c.mul (sweep c lo hi (dec c t tau)) tuneMul) := fun hlo hhi htau =>
    nonNegOrNaN_mul hc (.inr (le_zero_sweep hc hlo hhi (inUnit_dec hw ht (F32.isNaN_of_finite htau.1)))) hm
  cases k <;> simp only [genFreqs, List.forall_mem_cons, List.not_mem_nil, false_imp_iff, implies_true, and_true]
  case kick =>
    have hf := hsweep (hrom (x := c.rom.kFLo) (by simp)) (hrom (x := c.rom.kFHi) (by simp))
      (hw.rom.positives c.rom.kSweepTau (by simp))
    refine ⟨hf, hratio ?_ hf⟩
    rw [lit_eq hc]
    decide +kernel
  case snare =>
    exact hsweep (hrom (x := c.rom.sFLo) (by simp)) (hrom (x := c.rom.sFHi) (by simp))
      (hw.rom.positives c.rom.sSweepTau (by simp))
  case closedHat | rim =>
    exact ⟨hbase (hrom (by simp)), hratio (hrom (by simp)) (hbase (hrom (by simp)))⟩
  case openHat =>
    exact ⟨hbase (hrom (by simp)), hratio (hrom (by simp)) (hbase (hrom (by simp))),
      hratio (hrom (by simp)) (hbase (hrom (by simp)))⟩
  case crash => exact ⟨hbase (hrom (by simp)), hbase (hrom (by simp)), hbase (hrom (by simp))⟩
  case ride => exact ⟨hbase (hrom (by simp)), hbase (hrom (by simp))⟩

/-- With constants of ordinary size no frequency exceeds 2^60: one factor of 2^20 for the ROM constant, one for the tune
multiplier, one for a ratio. A tuned frequency is within 2^40, a tuned sweep within 2^42. -/
theorem absLe_genFreqs (htame : Tame c) (hm0 : F32.le 0 tuneMul = true) (hm : AtMostMega tuneMul) (k : DrumType) :
    ∀ f ∈ genFreqs c k t tuneMul, AbsLe f 0x5D800000 := by
  have hc := hw.binary32
  have hmul : AbsLe tuneMul 0x49800000 := absLe_of_nonneg hm0 hm
  have hrom : ∀ {x}, x ∈ [c.rom.kFHi, c.rom.kFLo, c.rom.sFHi, c.rom.sFLo, c.rom.chF0, c.rom.chRatio, c.rom.ohF0,
      c.rom.ohR1, c.rom.ohR2, c.rom.crF0, c.rom.crF1, c.rom.crF2, c.rom.rdPingF, c.rom.rdTailF, c.rom.rmF0,
      c.rom.rmRatio] → AbsLe x 0x49800000 := fun hx =>
    absLe_of_nonneg (le_zero_of_isPositive (hw.rom.isPositive hx)) (htame.frequencies _ hx)
  have hwide : ∀ {x}, AbsLe x 0x53800000 → AbsLe x 0x5D800000 := fun hx => hx.trans (by decide)
  have hbase : ∀ {x}, AbsLe x 0x49800000 → AbsLe (c.mul x tuneMul) 0x53800000 :=
    fun hx => absLe_mul_of hc (by decide) (by decide) (by decide +kernel) hx hmul
  have hratio : ∀ {x y}, AbsLe x 0x49800000 → AbsLe y 0x53800000 → AbsLe (c.mul x y) 0x5D800000 :=
    fun hx hy => absLe_mul_of hc (by decide) (by decide) (by decide +kernel) hx hy
  have hsweep : ∀ {lo hi tau}, AbsLe lo 0x49800000 → AbsLe hi 0x49800000 → IsPositive tau →
      AbsLe (c.mul (sweep c lo hi (dec c t tau)) tuneMul) 0x54800000 := fun hlo hhi htau =>
    absLe_mul_of hc (by decide) (by decide) (by decide +kernel)
      (absLe_sweep hc hlo hhi (inUnit_dec hw ht (F32.isNaN_of_finite htau.1))) hmul
  cases k <;> simp only [genFreqs, List.forall_mem_cons, List.not_mem_nil, false_imp_iff, implies_true, and_true]
  case kick =>
    have hf := hsweep (hrom (x := c.rom.kFLo) (by simp)) (hrom (x := c.rom.kFHi) (by simp))
      (hw.rom.positives c.rom.kSweepTau (by simp))
    have hhalf : UnitMagnitude (c.lit 1 2) := by rw [lit_eq hc]; decide +kernel
    exact ⟨hf.trans (by decide), (absLe_unit_mul hc (by decide) hf hhalf).trans (by decide)⟩
  case snare =>
    exact (hsweep (hrom (x := c.rom.sFLo) (by simp)) (hrom (x := c.rom.sFHi) (by simp))
      (hw.rom.positives c.rom.sSweepTau (by simp))).trans (by decide)
  case closedHat | rim =>
    exact ⟨hwide (hbase (hrom (by simp))), hratio (hrom (by simp)) (hbase (hrom (by simp)))⟩
  case openHat =>
    exact ⟨hwide (hbase (hrom (by simp))), hratio (hrom (by simp)) (hbase (hrom (by simp))),
      hratio (hrom (by simp)) (hbase (hrom (by simp)))⟩
  case crash => exact ⟨hwide (hbase (hrom (by simp))), hwide (hbase (hrom (by simp))), hwide (hbase (hrom (by simp)))⟩
  case ride => exact ⟨hwide (hbase (hrom (by simp))), hwide (hbase (hrom (by simp)))⟩

end

/-! ### Phases through a tick (10_state.md R27, R30 c) -/

/-- What the advance by every frequency of a voice keeps of a phase, the voice's sound keeps of its phases. -/
theorem sound_ph_keeps {N : Type} {P : N → Prop} {c : Config N} {snap : Bank N} {sr : BitVec 32} {k : DrumType}
    {v : Voice N} (hadv : ∀ f ∈ genFreqs c k (elapsed c sr v) (tuneMulOf c snap k), ∀ p, P p → P (advance c sr f p))
    (hv : ∀ j : Fin 3, P v.ph[j]) (j : Fin 3) : P (sound c snap sr k v).2.ph[j] := by
  simp only [sound, post_frame]
  rw [gen_ph]
  cases hf : (genFreqs c k (elapsed c sr v) (tuneMulOf c snap k))[j.val]? with
  | none => exact hv j
  | some f => exact hadv f (List.mem_of_getElem? hf) _ (hv j)

/-- What a tick keeps of the phases of an active record, if sounding does. -/
theorem voiceStep_ph_keeps {N : Type} {P : N → Prop} {c : Config N} {snap : Bank N} {sr : BitVec 32} {v : Voice N}
    (hadv : ∀ k, ∀ f ∈ genFreqs c k (elapsed c sr v) (tuneMulOf c snap k), ∀ p, P p → P (advance c sr f p))
    (hv : v.active = true → ∀ j : Fin 3, P v.ph[j]) :
    (voiceStep c snap sr v).voice.active = true → ∀ j : Fin 3, P (voiceStep c snap sr v).voice.ph[j] := by
  obtain ⟨-, he⟩ | ⟨ha, -, he⟩ | ⟨-, he⟩ | ⟨ha, -, k, -, -, he⟩ := voiceStep_cases c snap sr v
  · rwa [he]
  · rw [he]; exact fun _ => hv ha
  · rw [he]; exact fun h => absurd h (by simp)
  · rw [he]; exact fun _ => sound_ph_keeps (hadv k) (hv ha)

theorem phasesOk_tick {c : Config Num32} (hs : Steady c) {s : State} (hsnap : BankOk c s.snap) {sr : BitVec 32}
    (hsr : 8000 ≤ sr.toNat) (h : PhasesOk s.voices) : PhasesOk (tick c sr s).voices := by
  intro i
  rw [tick_voices, voicesAfter_get]
  have hc := hs.wf.binary32
  refine voiceStep_ph_keeps (fun k f hf p hp => phaseOk_advance hc hp ?_) (h i)
  have hfreq := nonNegOrNaN_genFreqs hs.wf (envelopeTime_elapsed hs hsr _)
    (.inr (F32.le_of_lt (lt_zero_tuneMulOf hs hsnap k))) k f hf
  exact nonNegOrNaN_div hc hfreq (lt_zero_ofNat_rate hc hsr) (isFinite_ofNat_word hc sr)

theorem phasesOk_ticks {c : Config Num32} (hs : Steady c) {sr : BitVec 32} (hsr : 8000 ≤ sr.toNat) (n : Nat) {s : State}
    (hsnap : BankOk c s.snap) (h : PhasesOk s.voices) : PhasesOk (ticks c sr n s).voices := by
  induction n generalizing s with
  | zero => exact h
  | succ n ih => exact ih (by rw [tick_snap]; exact hsnap) (phasesOk_tick hs hsnap hsr h)

/-- The phases of an active record, as a property of the record. -/
def ActivePhasesOk (v : Voice Num32) : Prop := v.active = true → ∀ j : Fin 3, PhaseOk v.ph[j]

theorem isPhase_newVoice {c : Config Num32} (hw : ConfigWf c) (n : Nat) (dt : DrumType) (vel : Num32) (off : Int)
    (j : Fin 3) : F32.isPhase (newVoice c (c.draw n) dt vel off).ph[j] = true := by
  obtain ⟨h0, h1, h2⟩ := hw.draws n
  fin_cases j
  · exact h0
  · exact h1
  · exact h2

/-- What falls inside a SNAP touches no voice, not the bus and no frame. -/
theorem overlapCtl_frame (c : Config Num32) (n fuel j : Nat) (s : State) :
    (overlapCtl c n fuel j s).after.voices = s.voices ∧ (overlapCtl c n fuel j s).after.mb = s.mb ∧
      (overlapCtl c n fuel j s).after.frames = s.frames :=
  (overlapCtl_keeps (Q := fun u => u.voices = s.voices ∧ u.mb = s.mb ∧ u.frames = s.frames) (c := c) (fun _ _ h => h)
    (fun u d h => by rw [ctlEffect_frame]; exact h) n fuel j ⟨rfl, rfl, rfl⟩).1

/-- What holds of every record and of every record that an allocation writes holds of every record after a SNAP. -/
theorem forall_voiceAt_snapState {P : Voice Num32 → Prop} {c : Config Num32}
    (hnew : ∀ n dt vel off, P (newVoice c (c.draw n) dt vel off)) {s : State} (h : ∀ i, P (voiceAt s.voices i))
    (i : Fin 32) : P (voiceAt (snapState c s).voices i) := by
  obtain ⟨hvoices, -, -⟩ := overlapCtl_frame c s.snaps s.inbox.length 0 s
  refine forall_voiceAt_playHits hnew _ (fun i => ?_) i
  rw [setMask_voices, countSnap_voices, latchSnap_voices, hvoices]
  exact h i

theorem CommandEffect.phasesOk {c : Config Num32} (hs : Steady c) {s t : State} (h : CommandEffect c s t)
    (hinv : InvOf c s) (hph : PhasesOk s.voices) : PhasesOk t.voices := by
  have hnew : ∀ n dt vel off, ActivePhasesOk (newVoice c (c.draw n) dt vel off) :=
    fun n dt vel off _ j => .inr (isPhase_newVoice hs.wf n dt vel off j)
  cases h with
  | nothing | dbghit dt => exact hph
  | prepare mb sr =>
    intro i
    change (voiceAt (clearedVoices c) i).active = true → _
    rw [voiceAt_clearedVoices]
    exact fun h => absurd h (by simp [clearedVoice])
  | setp pid val => rw [setParam_frame]; exact hph
  | getp p pid =>
    unfold getParam
    rw [respond_voices]
    exact hph
  | snap => exact forall_voiceAt_snapState (P := ActivePhasesOk) hnew hph
  | trig dt vel off => exact forall_voiceAt_allocate (P := ActivePhasesOk) (hnew _ dt vel off) hph
  | render sr n hsr => exact phasesOk_ticks hs (hinv.rate sr hsr) n hinv.snapshot hph

/-- Settles O55: frequencies are not negative or no numbers, so an advanced phase is in [0, 1) or a NaN. -/
theorem stepKeepsPhasesInCycle : Obligations.StepKeepsPhasesInCycle := by
  intro s t hinv hph hstep
  obtain ⟨p, rest, heff⟩ := step_effect hstep
  obtain ⟨haud, hctl⟩ := fetchFrom_heldOk s.inbox hinv.heldAud hinv.heldCtl
  exact heff.phasesOk cfg_steady (hinv.takeWords p rest haud hctl) hph

end Sys2Proof.Machine

/-! ### The raw sample of a generator is bounded by the sum of its gains (42_drum_generators.md R171 to R178, R180) -/

namespace Sys2Proof.Machine

section
variable {c : Config Num32} (hc : c.num = F32.format) {g x y : Num32}
include hc

theorem absLe_gain (hg : IsGain g) (hx : UnitMagnitude x) : AbsLe (c.mul g x) g :=
  absLe_mul_unit hc hg.1 (absLe_refl hg.2) hx

/-- A component: its gain, its envelope, its signal. -/
theorem absLe_component (hg : IsGain g) (hx : UnitMagnitude x) (hy : UnitMagnitude y) : AbsLe (c.mul (c.mul g x) y) g :=
  absLe_mul_unit hc hg.1 (absLe_gain hc hg hx) hy

theorem absLe_two (hx : UnitMagnitude x) (hy : UnitMagnitude y) : AbsLe (c.add x y) (c.lit 2 1) := by
  have hlit : c.lit 2 1 = 0x40000000 := by rw [lit_eq hc]; decide +kernel
  rw [hlit]
  exact absLe_add_of hc (by decide) (by decide) (by decide +kernel) hx hy

theorem absLe_three {z : Num32} (hx : UnitMagnitude x) (hy : UnitMagnitude y) (hz : UnitMagnitude z) :
    AbsLe (c.add (c.add x y) z) (c.lit 3 1) := by
  have htwo : c.lit 2 1 = 0x40000000 := by rw [lit_eq hc]; decide +kernel
  have hthree : c.lit 3 1 = 0x40400000 := by rw [lit_eq hc]; decide +kernel
  have hxy := absLe_two hc hx hy
  rw [htwo] at hxy
  rw [hthree]
  exact absLe_add_of hc (by decide) (by decide) (by decide +kernel) hxy hz

theorem isNaN_mul_decay {tau decay : Num32} (htau : IsPositive tau) (hdecay : F32.lt 0 decay = true) :
    F32.isNaN (c.mul tau decay) = false := by
  rw [mul_eq hc, isNaN_flush hc, F32.mul_comm]
  exact F32.isNaN_mul_of_pos (F32.lt_zero_iff.1 hdecay).1 htau.1 htau.2

theorem isNaN_mul_hatLen {x hl : Num32} (hx : F32.isNaN x = false) (hhl : IsPositive hl) :
    F32.isNaN (c.mul x hl) = false := by
  rw [mul_eq hc, isNaN_flush hc]
  exact F32.isNaN_mul_of_pos hx hhl.1 hhl.2

end

section
variable {c : Config Num32} (hw : ConfigWf c) {t decay hl : Num32} (ht : EnvelopeTime c t)
include hw ht

theorem unitMagnitude_dec_tau {tau : Num32} (htau : IsPositive tau) : UnitMagnitude (dec c t tau) :=
  unitMagnitude_dec hw ht (F32.isNaN_of_finite htau.1)

theorem unitMagnitude_dec_decay (hdecay : F32.lt 0 decay = true) {tau : Num32} (htau : IsPositive tau) :
    UnitMagnitude (dec c t (c.mul tau decay)) :=
  unitMagnitude_dec hw ht (isNaN_mul_decay hw.binary32 htau hdecay)

theorem unitMagnitude_dec_hat (hdecay : F32.lt 0 decay = true) (hhl : IsPositive hl) {tau : Num32}
    (htau : IsPositive tau) : UnitMagnitude (dec c t (c.mul (c.mul tau decay) hl)) :=
  unitMagnitude_dec hw ht (isNaN_mul_hatLen hw.binary32 (isNaN_mul_decay hw.binary32 htau hdecay) hhl)

theorem absLe_partialOf (hdecay : F32.lt 0 decay = true) (hhl : IsPositive hl) {g tau x : Num32} (hg : IsGain g)
    (htau : IsPositive tau) (hx : UnitMagnitude x) : AbsLe (partialOf c t decay hl g tau x) g :=
  absLe_component hw.binary32 hg (unitMagnitude_dec_hat hw ht hdecay hhl htau) hx

end

section
variable {c : Config Num32} (hw : ConfigWf c) {sr : BitVec 32} {v : Voice Num32}
  (hp : ∀ j : Fin 3, F32.isPhase v.ph[j] = true)
include hw hp

/-- The second oscillator of a record reads a phase that the first one has not touched. -/
theorem unitMagnitude_osc_second (f g : Num32) : UnitMagnitude (osc c sr 1 g (osc c sr 0 f v).2).1 :=
  unitMagnitude_osc hw sr 1 g (by rw [osc_ph, if_neg (by decide)]; exact hp 1)

/-- So does the third. -/
theorem unitMagnitude_osc_third (f g h : Num32) :
    UnitMagnitude (osc c sr 2 h (osc c sr 1 g (osc c sr 0 f v).2).2).1 :=
  unitMagnitude_osc hw sr 2 h (by
    rw [osc_ph, if_neg (by decide), osc_ph, if_neg (by decide)]
    exact hp 2)

end

section
variable {c : Config Num32} (hw : ConfigWf c) {sr : BitVec 32} {t tuneMul decay hl : Num32} {v : Voice Num32}
  (ht : EnvelopeTime c t) (hp : ∀ j : Fin 3, F32.isPhase v.ph[j] = true)
include hw ht hp

theorem absLe_genKick (hdecay : F32.lt 0 decay = true) (hfin : F32.isFinite (rawMax c .kick) = true) :
    AbsLe (genKick c sr t tuneMul decay v).1 (rawMax c .kick) := by
  have hc := hw.binary32
  obtain ⟨ftone, fclick⟩ := isFinite_of_add hc hfin
  obtain ⟨fthump, fsub⟩ := isFinite_of_add hc ftone
  refine absLe_add hc ftone fclick (absLe_unit_mul hc ftone (absLe_add hc fthump fsub ?thump ?sub) ?envelope) ?click
  case thump => exact absLe_gain hc (hw.rom.gains _ (by simp)) (unitMagnitude_osc hw sr 0 _ (hp 0))
  case sub => exact absLe_gain hc (hw.rom.gains _ (by simp)) (unitMagnitude_osc_second hw hp _ _)
  case envelope => exact unitMagnitude_dec_decay hw ht hdecay (hw.rom.positives _ (by simp))
  case click =>
    exact absLe_component hc (hw.rom.gains _ (by simp)) (unitMagnitude_dec_tau hw ht (hw.rom.positives _ (by simp)))
      (unitMagnitude_nz hc _)

theorem absLe_genSnare (hdecay : F32.lt 0 decay = true) (hfin : F32.isFinite (rawMax c .snare) = true) :
    AbsLe (genSnare c sr t tuneMul decay v).1 (rawMax c .snare) := by
  have hc := hw.binary32
  obtain ⟨fbody, fnoisy⟩ := isFinite_of_add hc hfin
  obtain ⟨fnoise, fcrack⟩ := isFinite_of_add hc fnoisy
  refine absLe_add hc fbody fnoisy ?body
    (absLe_mul_unit hc fnoisy (absLe_add hc fnoise fcrack ?noise ?crack) (unitMagnitude_nz hc _))
  case body =>
    exact absLe_component hc (hw.rom.gains _ (by simp))
      (unitMagnitude_dec_decay hw ht hdecay (hw.rom.positives _ (by simp))) (unitMagnitude_osc hw sr 0 _ (hp 0))
  case noise =>
    exact absLe_gain hc (hw.rom.gains _ (by simp)) (unitMagnitude_dec_decay hw ht hdecay (hw.rom.positives _ (by simp)))
  case crack =>
    exact absLe_gain hc (hw.rom.gains _ (by simp)) (unitMagnitude_dec_tau hw ht (hw.rom.positives _ (by simp)))

theorem absLe_genClosedHat (hdecay : F32.lt 0 decay = true) (hhl : IsPositive hl)
    (hfin : F32.isFinite (rawMax c .closedHat) = true) :
    AbsLe (genClosedHat c sr t tuneMul decay hl v).1 (rawMax c .closedHat) := by
  have hc := hw.binary32
  obtain ⟨fnoise, fparts⟩ := isFinite_of_add hc hfin
  obtain ⟨fpart, flit⟩ := isFinite_of_mul hc fparts
  refine absLe_unit_mul hc hfin (absLe_add hc fnoise fparts ?noise ?parts)
    (unitMagnitude_dec_hat hw ht hdecay hhl (hw.rom.positives _ (by simp)))
  case noise => exact absLe_gain hc (hw.rom.gains _ (by simp)) (unitMagnitude_nz hc _)
  case parts =>
    exact absLe_mul hc fpart flit (absLe_refl (hw.rom.gains _ (by simp)).2)
      (absLe_two hc (unitMagnitude_osc hw sr 0 _ (hp 0)) (unitMagnitude_osc_second hw hp _ _))

theorem absLe_genOpenHat (hdecay : F32.lt 0 decay = true) (hhl : IsPositive hl)
    (hfin : F32.isFinite (rawMax c .openHat) = true) :
    AbsLe (genOpenHat c sr t tuneMul decay hl v).1 (rawMax c .openHat) := by
  have hc := hw.binary32
  obtain ⟨fnoise, fparts⟩ := isFinite_of_add hc hfin
  obtain ⟨fpart, flit⟩ := isFinite_of_mul hc fparts
  refine absLe_unit_mul hc hfin (absLe_add hc fnoise fparts ?noise ?parts)
    (unitMagnitude_dec_hat hw ht hdecay hhl (hw.rom.positives _ (by simp)))
  case noise => exact absLe_gain hc (hw.rom.gains _ (by simp)) (unitMagnitude_nz hc _)
  case parts =>
    exact absLe_mul hc fpart flit (absLe_refl (hw.rom.gains _ (by simp)).2)
      (absLe_three hc (unitMagnitude_osc hw sr 0 _ (hp 0)) (unitMagnitude_osc_second hw hp _ _)
        (unitMagnitude_osc_third hw hp _ _ _))

theorem absLe_genCrash (hdecay : F32.lt 0 decay = true) (hhl : IsPositive hl)
    (hfin : F32.isFinite (rawMax c .crash) = true) :
    AbsLe (genCrash c sr t tuneMul decay hl v).1 (rawMax c .crash) := by
  have hc := hw.binary32
  obtain ⟨fparts, fnoise⟩ := isFinite_of_add hc hfin
  obtain ⟨ftwo, fthird⟩ := isFinite_of_add hc fparts
  obtain ⟨ffirst, fsecond⟩ := isFinite_of_add hc ftwo
  refine absLe_unit_mul hc hfin
    (absLe_add hc fparts fnoise (absLe_add hc ftwo fthird (absLe_add hc ffirst fsecond ?first ?second) ?third) ?noise)
    (unitMagnitude_of_inUnit (inUnit_att hw (ht.isFinite hw) ht.nonneg (hw.rom.positives _ (by simp))))
  all_goals refine absLe_partialOf hw ht hdecay hhl (hw.rom.gains _ (by simp)) (hw.rom.positives _ (by simp)) ?_
  case first => exact unitMagnitude_osc hw sr 0 _ (hp 0)
  case second => exact unitMagnitude_osc_second hw hp _ _
  case third => exact unitMagnitude_osc_third hw hp _ _ _
  case noise => exact unitMagnitude_nz hc _

theorem absLe_genRide (hdecay : F32.lt 0 decay = true) (hhl : IsPositive hl)
    (hfin : F32.isFinite (rawMax c .ride) = true) :
    AbsLe (genRide c sr t tuneMul decay hl v).1 (rawMax c .ride) := by
  have hc := hw.binary32
  obtain ⟨fparts, fnoise⟩ := isFinite_of_add hc hfin
  obtain ⟨fping, ftail⟩ := isFinite_of_add hc fparts
  refine absLe_unit_mul hc hfin (absLe_add hc fparts fnoise (absLe_add hc fping ftail ?ping ?tail) ?noise)
    (unitMagnitude_of_inUnit (inUnit_att hw (ht.isFinite hw) ht.nonneg (hw.rom.positives _ (by simp))))
  all_goals refine absLe_partialOf hw ht hdecay hhl (hw.rom.gains _ (by simp)) (hw.rom.positives _ (by simp)) ?_
  case ping => exact unitMagnitude_osc hw sr 0 _ (hp 0)
  case tail => exact unitMagnitude_osc_second hw hp _ _
  case noise => exact unitMagnitude_nz hc _

theorem absLe_genRim (hdecay : F32.lt 0 decay = true) (hfin : F32.isFinite (rawMax c .rim) = true) :
    AbsLe (genRim c sr t tuneMul decay v).1 (rawMax c .rim) := by
  have hc := hw.binary32
  obtain ⟨fparts, ftick⟩ := isFinite_of_add hc hfin
  obtain ⟨fpart, flit⟩ := isFinite_of_mul hc fparts
  refine absLe_add hc fparts ftick (absLe_mul hc fpart flit ?envelope ?parts) ?tick
  case envelope =>
    exact absLe_gain hc (hw.rom.gains _ (by simp)) (unitMagnitude_dec_decay hw ht hdecay (hw.rom.positives _ (by simp)))
  case parts => exact absLe_two hc (unitMagnitude_osc hw sr 0 _ (hp 0)) (unitMagnitude_osc_second hw hp _ _)
  case tick =>
    exact absLe_component hc (hw.rom.gains _ (by simp)) (unitMagnitude_dec_tau hw ht (hw.rom.positives _ (by simp)))
      (unitMagnitude_nz hc _)

omit hp in
theorem absLe_genClap (hdecay : F32.lt 0 decay = true) : AbsLe (genClap c t decay v).1 (rawMax c .clap) :=
  absLe_component hw.binary32 (hw.rom.gains _ (by simp))
    (unitMagnitude_of_inUnit (inUnit_clapEnvelope hw ht (F32.le_of_lt hdecay))) (unitMagnitude_nz hw.binary32 _)

/-- `RAWMAX` bounds the raw sample of every type where it is finite. -/
theorem absLe_gen (hdecay : F32.lt 0 decay = true) (hhl : IsPositive hl) (k : DrumType)
    (hfin : F32.isFinite (rawMax c k) = true) : AbsLe (gen c sr k t tuneMul decay hl v).1 (rawMax c k) := by
  cases k with
  | kick => exact absLe_genKick hw ht hp hdecay hfin
  | snare => exact absLe_genSnare hw ht hp hdecay hfin
  | closedHat => exact absLe_genClosedHat hw ht hp hdecay hhl hfin
  | openHat => exact absLe_genOpenHat hw ht hp hdecay hhl hfin
  | crash => exact absLe_genCrash hw ht hp hdecay hhl hfin
  | ride => exact absLe_genRide hw ht hp hdecay hhl hfin
  | clap => exact absLe_genClap hw ht hdecay
  | rim => exact absLe_genRim hw ht hp hdecay hfin

end

end Sys2Proof.Machine

namespace Sys2Proof.Machine

/-! ### Drive stages (41_voice_synthesis.md R154, 43_master_bus.md R195) -/

/-- A drive stage of gain at least 1 gives a number of magnitude at most 1 for every number. -/
theorem unitMagnitude_driveStage {c : Config Num32} (hw : ConfigWf c) {dg x : Num32} (hdg : F32.le one dg = true)
    (hx : F32.isNaN x = false) : UnitMagnitude (driveStage c dg x) := by
  have hc := hw.binary32
  obtain ⟨h0, h1⟩ := le_div_of hc (x := one) (a := one) (b := one) (d := one) (by decide) (by decide) (by decide) (by decide)
    (by decide) (hw.sqrt_ge_one dg hdg) (by decide +kernel)
  rw [driveStage, softClip, one_eq hc]
  exact absLe_mul_unit hc (by decide) (hw.tanh_bound x hx) (absLe_of_nonneg h0 h1)

/-- A drive gain `1 + g × x` with `g` up to 8 and `x` in [0, 1] is a number and at least 1. -/
theorem driveGain_range {c : Config Num32} (hc : c.num = F32.format) {g x : Num32} (hg0 : F32.le 0 g = true)
    (hg : F32.le g 0x41000000 = true) (hx : F32.inUnit x = true) :
    F32.le one (c.add one (c.mul g x)) = true ∧ F32.isFinite (c.add one (c.mul g x)) = true := by
  obtain ⟨hx0, hx1⟩ := inUnit_iff_within.1 hx
  have fg := F32.isFinite_of_nonneg_of_le (by decide) hg0 hg
  have fx := F32.isFinite_of_nonneg_of_le (by decide) hx0 hx1
  have hprod : AbsLe (c.mul g x) 0x41000000 :=
    absLe_mul_unit hc (by decide) (absLe_of_nonneg hg0 hg) (unitMagnitude_of_inUnit hx)
  have fprod := hprod.isFinite (by decide)
  have hsum : AbsLe (c.add one (c.mul g x)) 0x41100000 :=
    absLe_add_of hc (a := one) (b := 0x41000000) (by decide) (by decide) (by decide +kernel) (by decide) hprod
  have hlow := le_add hc (x := one) (x' := one) (y := 0) (by decide) (by decide) (by decide) fprod (by decide)
    (le_zero_mul hc fg fx hg0 hx0)
  have hone : c.add one 0 = one := by
    rw [add_eq hc, show F32.add one 0 = one by decide +kernel, flush_eq_self hc (.inl (by decide))]
  rw [hone] at hlow
  exact ⟨hlow, hsum.isFinite (by decide)⟩

/-- Tone and drive registers lie in [0, 1] (93 U4). -/
theorem inUnit_regRead {c : Config Num32} (hw : ConfigWf c) {snap : Bank Num32} (hb : BankOk c snap) {id : Fin 46}
    (hid : id ∈ gTone :: gDrive :: (drumTypes.map dTone ++ drumTypes.map dDrive)) :
    F32.inUnit (regRead snap id) = true := by
  obtain ⟨hlo, hhi⟩ := hw.tone_drive_unit id hid
  obtain ⟨hlo0, -⟩ := inUnit_iff_within.1 hlo
  obtain ⟨-, hhi1⟩ := inUnit_iff_within.1 hhi
  exact inUnit_iff_within.2 ⟨F32.le_trans hlo0 (hb id).1, F32.le_trans (hb id).2 hhi1⟩

theorem inUnit_dTone {c : Config Num32} (hw : ConfigWf c) {snap : Bank Num32} (hb : BankOk c snap) (k : DrumType) :
    F32.inUnit (regRead snap (dTone k)) = true :=
  inUnit_regRead hw hb (List.mem_cons_of_mem _ (List.mem_cons_of_mem _
    (List.mem_append_left _ (List.mem_map_of_mem (mem_drumTypes k)))))

theorem inUnit_dDrive {c : Config Num32} (hw : ConfigWf c) {snap : Bank Num32} (hb : BankOk c snap) (k : DrumType) :
    F32.inUnit (regRead snap (dDrive k)) = true :=
  inUnit_regRead hw hb (List.mem_cons_of_mem _ (List.mem_cons_of_mem _
    (List.mem_append_right _ (List.mem_map_of_mem (mem_drumTypes k)))))

/-! ### The post chain (41_voice_synthesis.md R153 to R156) -/

/-- The tone filter is a one-pole update (R153). -/
theorem toneState_eq_onePole {N : Type} (c : Config N) (snap : Bank N) (k : DrumType) (raw tlp : N) :
    toneState c snap k raw tlp = onePole c (c.vtoneCoef (regRead snap (dTone k))) raw tlp := rfl

section
variable {c : Config Num32} (hw : ConfigWf c) {snap : Bank Num32} (hb : BankOk c snap) (k : DrumType)
include hw hb

/-- Stage 1 keeps a filter state of moderate size so, under raw samples of moderate size. -/
theorem moderate_toneState {raw tlp : Num32} (hraw : Moderate raw) (htlp : Moderate tlp) :
    Moderate (toneState c snap k raw tlp) := by
  obtain ⟨hlo, hhi⟩ := hw.vtone_coef _ (inUnit_dTone hw hb k)
  have hcoef : Within 0 (c.vtoneCoef (regRead snap (dTone k))) one :=
    ⟨F32.le_trans (by decide +kernel) hlo, F32.le_trans hhi (by decide +kernel)⟩
  rw [toneState_eq_onePole]
  exact absLe_onePole hw.binary32 powerBound_moderate hcoef hraw htlp

/-- The blend is at most 2^126 + 2^127 in magnitude, which is finite. -/
theorem isFinite_toneBlend {raw tlp' : Num32} (hraw : Moderate raw) (htlp : Moderate tlp') :
    F32.isFinite (toneBlend c snap k raw tlp') = true := by
  have hc := hw.binary32
  have hdiff : AbsLe (c.sub tlp' raw) 0x7F000000 := absLe_sub_of hc (by decide) (by decide) (by decide +kernel) htlp hraw
  have hmix := unitMagnitude_of_inUnit (hw.vtone_mix _ (inUnit_dTone hw hb k))
  have hblend : AbsLe (toneBlend c snap k raw tlp') 0x7F400000 :=
    absLe_add_of hc (by decide) (by decide) (by decide +kernel) hraw (absLe_unit_mul hc (by decide) hdiff hmix)
  exact hblend.isFinite (by decide)

theorem unitMagnitude_voiceDrive {x : Num32} (fx : F32.isFinite x = true) : UnitMagnitude (voiceDrive c snap k x) := by
  have hc := hw.binary32
  have hlit : c.lit 66 10 = 0x40D33333 := by rw [lit_eq hc]; decide +kernel
  obtain ⟨hgain, fgain⟩ := driveGain_range hc (g := c.lit 66 10) (by rw [hlit]; decide) (by rw [hlit]; decide)
    (inUnit_dDrive hw hb k)
  rw [voiceDrive, voiceDriveGain, one_eq hc]
  exact unitMagnitude_driveStage hw hgain (isNaN_mul hc fx fgain)

theorem unitMagnitude_voiceScale {vel x : Num32} (hvel : F32.inUnit vel = true) (hx : UnitMagnitude x) :
    UnitMagnitude (voiceScale c snap k vel x) := by
  have hc := hw.binary32
  have hlit : AbsLe (c.lit 35 100) one := by rw [lit_eq hc]; decide +kernel
  have hlit' : AbsLe (c.lit 65 100) one := by rw [lit_eq hc]; decide +kernel
  have hcurve : AbsLe (c.add (c.lit 35 100) (c.mul (c.lit 65 100) vel)) 0x40000000 :=
    absLe_add_of hc (by decide) (by decide) (by decide +kernel) hlit
      (absLe_mul_unit hc (by decide) hlit' (unitMagnitude_of_inUnit hvel))
  have hscaled := absLe_unit_mul hc (by decide) hcurve hx
  rw [voiceScale, softClip]
  exact hw.tanh_bound _ (isNaN_mul hc (hscaled.isFinite (by decide)) (isFinite_regRead hw hb _))

/-- What a voice returns has magnitude at most 1 where its raw sample and its filter state are of moderate size, and the
filter state stays so (R156). -/
theorem post_bounded {raw : Num32} {v : Voice Num32} (hvel : F32.inUnit v.vel = true) (hraw : Moderate raw)
    (htlp : Moderate v.tlp) :
    UnitMagnitude (post c snap k raw v).1 ∧ Moderate (post c snap k raw v).2.tlp := by
  have htone := moderate_toneState hw hb k hraw htlp
  exact ⟨unitMagnitude_voiceScale hw hb k hvel
    (unitMagnitude_voiceDrive hw hb k (isFinite_toneBlend hw hb k hraw htone)), htone⟩

end

/-! ### The mono sum (43_master_bus.md R192) -/

theorem ofNat_voices_succ : ∀ n : Fin 32, F32.isFinite (F32.ofNat n) = true ∧
    F32.le (F32.add (F32.ofNat n) one) (F32.ofNat (n + 1)) = true := by decide +kernel

/-- A left fold of samples no larger than 1, from a sum of `n` of them, is no larger than their number: up to 32 the numbers
are exact. -/
theorem absLe_foldl_add {c : Config Num32} (hc : c.num = F32.format) (l : List Num32)
    (hl : ∀ y ∈ l, UnitMagnitude y) {acc : Num32} {n : Nat} (hacc : AbsLe acc (F32.ofNat n)) (hn : n + l.length ≤ 32) :
    AbsLe (l.foldl c.add acc) (F32.ofNat (n + l.length)) := by
  induction l generalizing acc n with
  | nil => exact hacc
  | cons y l ih =>
    obtain ⟨hy, hl⟩ := List.forall_mem_cons.1 hl
    rw [List.length_cons] at hn ⊢
    obtain ⟨fn, hsucc⟩ := ofNat_voices_succ ⟨n, by omega⟩
    have hstep : AbsLe (c.add acc y) (F32.ofNat (n + 1)) := absLe_add_of hc fn (by decide) hsucc hacc hy
    have := ih hl hstep (by omega)
    rwa [show n + 1 + l.length = n + (l.length + 1) by omega] at this

theorem absLe_monoSum {c : Config Num32} (hc : c.num = F32.format) {outs : List (Option Num32)} (hlen : outs.length ≤ 32)
    (houts : ∀ y, some y ∈ outs → UnitMagnitude y) : AbsLe (monoSum c outs) 0x42000000 := by
  have hl : ∀ y ∈ outs.filterMap id, UnitMagnitude y := fun y hy => houts y (by simpa using hy)
  have hlen' : (outs.filterMap id).length ≤ 32 := (List.length_filterMap_le _ _).trans hlen
  have hzero : AbsLe c.zero (F32.ofNat 0) := by rw [zero_eq hc]; decide +kernel
  have hsum := absLe_foldl_add hc _ hl hzero (by omega)
  have hmax : F32.ofNat 32 = 0x42000000 := by decide +kernel
  rw [monoSum, ← hmax]
  exact hsum.trans (F32.ofNat_mono (by omega))

/-! ### The master stage (43_master_bus.md R193 to R203) -/

/-- The transient tracker is a one-pole update (R193). -/
theorem punchAfter_eq_onePole {N : Type} (c : Config N) (punch mono : N) :
    punchAfter c punch mono = onePole c (c.lit 11 100) mono punch := rfl

section
variable {c : Config Num32} (hw : ConfigWf c) {snap : Bank Num32} (hb : BankOk c snap) {mono : Num32}
  (hmono : AbsLe mono 0x42000000) {mb : MasterBus Num32}
include hw

/-- The tracker stays within the number of voices. -/
theorem absLe_punchAfter (hmono : AbsLe mono 0x42000000) {punch : Num32} (hpunch : AbsLe punch 0x42000000) :
    AbsLe (punchAfter c punch mono) 0x42000000 := by
  have hcoef : Within 0 (c.lit 11 100) one := by rw [lit_eq hw.binary32]; exact ⟨by decide +kernel, by decide +kernel⟩
  rw [punchAfter_eq_onePole]
  exact absLe_onePole hw.binary32 powerBound_thirtyTwo hcoef hmono hpunch

include hb hmono

/-- The sample after the drive stage has magnitude at most 1: its operand is at most 32 + 64 in magnitude before the gain,
hence a number after it. -/
theorem unitMagnitude_mixedSample (hpunch : AbsLe mb.punch 0x42000000) : UnitMagnitude (mixedSample c snap mb mono) := by
  have hc := hw.binary32
  have hlit : c.lit 64 10 = 0x40CCCCCD := by rw [lit_eq hc]; decide +kernel
  have hemph : UnitMagnitude (c.lit 95 100) := by rw [lit_eq hc]; decide +kernel
  have hlevel : UnitMagnitude (c.lit 62 100) := by rw [lit_eq hc]; decide +kernel
  have htrack := absLe_punchAfter hw hmono hpunch
  have hdiff : AbsLe (c.sub mono (punchAfter c mb.punch mono)) 0x42800000 :=
    absLe_sub_of hc (by decide) (by decide) (by decide +kernel) hmono htrack
  have hm1 : AbsLe (emphasised c mono (punchAfter c mb.punch mono)) 0x42C00000 :=
    absLe_add_of hc (by decide) (by decide) (by decide +kernel) hmono (absLe_unit_mul hc (by decide) hdiff hemph)
  have fin := (absLe_mul_unit hc (by decide) hm1 hlevel).isFinite (by decide)
  obtain ⟨hgain, fgain⟩ := driveGain_range hc (g := c.lit 64 10) (by rw [hlit]; decide) (by rw [hlit]; decide)
    (inUnit_regRead hw hb (id := gDrive) (by simp))
  rw [mixedSample, masterDrive, masterDriveGain, one_eq hc]
  exact unitMagnitude_driveStage hw hgain (isNaN_mul hc fin fgain)

theorem busClean_busFiltered (h : BusClean mb) : BusClean (busFiltered c snap mono mb) where
  punch := absLe_punchAfter hw hmono h.punch
  left := by
    obtain ⟨hlo, hhi⟩ := hw.mtone_left _ (inUnit_regRead hw hb (id := gTone) (by simp))
    exact absLe_onePole hw.binary32 powerBound_one
      ⟨F32.le_trans (by decide +kernel) hlo, F32.le_trans hhi (by decide +kernel)⟩
      (unitMagnitude_mixedSample hw hb hmono h.punch) h.left
  right := by
    have hc := hw.binary32
    obtain ⟨hlo, hhi⟩ := hw.mtone_right _ (inUnit_regRead hw hb (id := gTone) (by simp))
    have hlit : UnitMagnitude (c.lit 997 1000) := by rw [lit_eq hc]; decide +kernel
    exact absLe_onePole hc powerBound_one ⟨F32.le_of_lt hlo, F32.le_of_lt hhi⟩
      (absLe_mul_unit hc (by decide) (unitMagnitude_mixedSample hw hb hmono h.punch) hlit) h.right

omit hb hmono in
theorem busClean_clearedBus : BusClean (clearedBus c) := by
  rw [clearedBus_eq hw.binary32]
  exact ⟨by decide, by decide, by decide⟩

/-- The silence reset clears the bus, and the filters keep it within its bounds. -/
theorem busClean_masterStep (any : Bool) (h : BusClean mb) : BusClean (masterStep c snap mono any mb) := by
  unfold masterStep
  split
  · exact busClean_clearedBus hw
  · exact busClean_busFiltered hw hb hmono h

omit hb hmono in
theorem unitMagnitude_of_mem_frameOf (h : BusClean mb) {x : Num32} (hx : x ∈ frameOf c mb) : UnitMagnitude x := by
  simp only [frameOf, List.mem_map, List.mem_range] at hx
  obtain ⟨ch, -, rfl⟩ := hx
  split_ifs
  · exact h.left
  · exact h.right
  · rw [zero_eq hw.binary32]; decide

end

/-- Where every sounding voice gives a number of magnitude at most 1, a tick keeps the bus and the output clean (R203). -/
theorem OutputClean.tick {c : Config Num32} (hw : ConfigWf c) {sr : BitVec 32} {s : State} (hb : BankOk c s.snap)
    (h : OutputClean s)
    (hout : ∀ (i : Fin 32) (y : Num32), (voiceStep c s.snap sr (voiceAt s.voices i)).out = some y → UnitMagnitude y) :
    OutputClean (Machine.tick c sr s) := by
  have hmem : ∀ y, some y ∈ poolOuts c s.snap sr s.voices → UnitMagnitude y := by
    intro y hy
    obtain ⟨v, hv, he⟩ := List.mem_map.1 hy
    obtain ⟨i, hi, rfl⟩ := List.getElem_of_mem hv
    exact hout ⟨i, by simpa using hi⟩ y he
  have hmono : AbsLe (monoSum c (poolOuts c s.snap sr s.voices)) 0x42000000 :=
    absLe_monoSum hw.binary32 (by simp [poolOuts]) hmem
  have hbus : BusClean (busAfter c s.snap sr s.voices s.mb) := busClean_masterStep hw hb hmono _ h.bus
  refine ⟨by rw [tick_mb]; exact hbus, fun f hf x hx => ?_⟩
  rw [tick_frames, List.mem_append, List.mem_singleton] at hf
  obtain hold | rfl := hf
  · exact h.emitted f hold x hx
  · exact unitMagnitude_of_mem_frameOf hw hbus hx

end Sys2Proof.Machine

/-! ### No NaN and no infinity in the sound, where no constant overflows (log 29) -/

namespace Sys2Proof.Machine

section
variable {c : Config Num32} (hw : ConfigWf c) (htame : Tame c) {snap : Bank Num32} (hb : BankOk c snap) {sr : BitVec 32}
  (hsr : 8000 ≤ sr.toNat)
include hw htame hb hsr

/-- With constants of ordinary size every frequency over the rate is finite, and every phase stays in [0, 1). -/
theorem isPhase_advance_genFreqs (v : Voice Num32) (k : DrumType) :
    ∀ f ∈ genFreqs c k (elapsed c sr v) (tuneMulOf c snap k), ∀ p, F32.isPhase p = true →
      F32.isPhase (advance c sr f p) = true := by
  intro f hf p hp
  have hc := hw.binary32
  have hs := htame.steady hw
  have htime := envelopeTime_elapsed hs hsr v
  have hmul0 := F32.le_of_lt (lt_zero_tuneMulOf hs hb k)
  have hbound := absLe_genFreqs hw htime htame hmul0 (atMostMega_tuneMulOf hw htame hb k) k f hf
  have hnan := (absLe_iff.1 hbound).1
  have h0 := (nonNegOrNaN_genFreqs hw htime (.inr hmul0) k f hf).resolve_left (by simp [hnan])
  obtain ⟨hq0, hq⟩ := le_div_of hc (a := 0x5D800000) (b := 0x45FA0000) (d := 0x5D800000) (by decide) (by decide) h0
    (le_of_absLe hbound) (by decide) (le_ofNat_rate hc hsr) (by decide +kernel)
  exact isPhase_advance hc hp hq0 (F32.isFinite_of_nonneg_of_le (by decide) hq0 hq)

theorem moderate_gen {v : Voice Num32} (hp : ∀ j : Fin 3, F32.isPhase v.ph[j] = true) (k : DrumType) :
    Moderate (gen c sr k (elapsed c sr v) (tuneMulOf c snap k) (decayOf c snap k) (hatLenOf c snap) v).1 := by
  have hmax : AbsLe (rawMax c k) 0x7E800000 := htame.raw k
  have hbound := absLe_gen (sr := sr) (tuneMul := tuneMulOf c snap k) hw (envelopeTime_elapsed (htame.steady hw) hsr v) hp
    (lt_zero_decayOf hw hb k) (isPositive_hatLenOf hw hb) k (hmax.isFinite (by decide))
  exact hbound.trans (le_of_absLe hmax)

/-- A sounding voice gives a number of magnitude at most 1 and keeps its filter state of moderate size. -/
theorem sound_bounded {v : Voice Num32} (hvel : F32.inUnit v.vel = true)
    (hp : ∀ j : Fin 3, F32.isPhase v.ph[j] = true) (htlp : Moderate v.tlp) (k : DrumType) :
    UnitMagnitude (sound c snap sr k v).1 ∧ Moderate (sound c snap sr k v).2.tlp := by
  have hraw := moderate_gen hw htame hb hsr hp k
  rw [sound, gen_frame]
  exact post_bounded hw hb k hvel hraw htlp

theorem unitMagnitude_voiceStep_out {v : Voice Num32} (hok : VoiceOk v) (hclean : VoiceClean v) {y : Num32}
    (hy : (voiceStep c snap sr v).out = some y) : UnitMagnitude y := by
  obtain ⟨-, he⟩ | ⟨-, -, he⟩ | ⟨-, he⟩ | ⟨ha, -, k, -, -, he⟩ := voiceStep_cases c snap sr v
  · rw [he] at hy; cases hy
  · rw [he] at hy; cases hy
  · rw [he] at hy
    cases hy
    rw [zero_eq hw.binary32]
    decide
  · rw [he] at hy
    cases hy
    obtain ⟨-, hvel, -, -⟩ := hok ha
    obtain ⟨hp, htlp⟩ := hclean ha
    exact (sound_bounded hw htame hb hsr hvel hp htlp k).1

theorem moderate_voiceStep_tlp {v : Voice Num32} (hok : VoiceOk v) (hclean : VoiceClean v)
    (hactive : (voiceStep c snap sr v).voice.active = true) : Moderate (voiceStep c snap sr v).voice.tlp := by
  obtain ⟨hfree, he⟩ | ⟨ha, -, he⟩ | ⟨-, he⟩ | ⟨ha, -, k, -, -, he⟩ := voiceStep_cases c snap sr v
  · rw [he] at hactive; exact absurd hactive (by simp [hfree])
  · rw [he]; exact (hclean ha).2
  · rw [he] at hactive; exact absurd hactive (by simp)
  · obtain ⟨-, hvel, -, -⟩ := hok ha
    obtain ⟨hp, htlp⟩ := hclean ha
    rw [he]
    exact (sound_bounded hw htame hb hsr hvel hp htlp k).2

theorem voiceClean_voiceStep {v : Voice Num32} (hok : VoiceOk v) (hclean : VoiceClean v) :
    VoiceClean (voiceStep c snap sr v).voice := fun hactive =>
  ⟨voiceStep_ph_keeps (P := fun p => F32.isPhase p = true) (isPhase_advance_genFreqs hw htame hb hsr v)
    (fun ha => (hclean ha).1) hactive, moderate_voiceStep_tlp hw htame hb hsr hok hclean hactive⟩

end

theorem voiceClean_clearedVoice (c : Config Num32) : VoiceClean (clearedVoice c) := fun h => absurd h (by simp [clearedVoice])

theorem voiceClean_newVoice {c : Config Num32} (hw : ConfigWf c) (n : Nat) (dt : DrumType) (vel : Num32) (off : Int) :
    VoiceClean (newVoice c (c.draw n) dt vel off) := fun _ =>
  ⟨isPhase_newVoice hw n dt vel off, by
    change Moderate c.zero
    rw [zero_eq hw.binary32]
    decide⟩

theorem soundClean_powerOn {c : Config Num32} (hw : ConfigWf c) : SoundClean c (State.powerOn c) where
  inv := invOf_powerOn hw
  voices := fun i => by
    change VoiceClean (voiceAt (clearedVoices c) i)
    rw [voiceAt_clearedVoices]
    exact voiceClean_clearedVoice c
  output := ⟨busClean_clearedBus hw, fun f hf => absurd hf List.not_mem_nil⟩

section
variable {c : Config Num32} (hw : ConfigWf c) {s : State} (h : SoundClean c s)
include hw h

theorem SoundClean.prepareState (mb : BitVec 16) (sr : BitVec 32) : SoundClean c (Machine.prepareState c mb sr s) where
  inv := h.inv.prepareState mb sr
  voices := fun i => by
    change VoiceClean (voiceAt (clearedVoices c) i)
    rw [voiceAt_clearedVoices]
    exact voiceClean_clearedVoice c
  output := ⟨busClean_clearedBus hw, h.output.emitted⟩

theorem SoundClean.allocate (dt : DrumType) (vel : Num32) (off : Int) : SoundClean c (Machine.allocate c dt vel off s) where
  inv := h.inv.allocate hw.binary32 dt vel off
  voices := forall_voiceAt_allocate (voiceClean_newVoice hw _ dt vel off) h.voices
  output := ⟨h.output.bus, h.output.emitted⟩

theorem SoundClean.ctlEffect (d : Decoded) : SoundClean c (Machine.ctlEffect c d s) where
  inv := h.inv.ctlEffect hw d
  voices := by rw [ctlEffect_frame]; exact h.voices
  output := by rw [ctlEffect_frame]; exact ⟨h.output.bus, h.output.emitted⟩

end

/-- A SNAP leaves the bus and the frames alone. -/
theorem snapState_output (c : Config Num32) (s : State) :
    (snapState c s).mb = s.mb ∧ (snapState c s).frames = s.frames := by
  obtain ⟨-, hmb, hframes⟩ := overlapCtl_frame c s.snaps s.inbox.length 0 s
  unfold snapState drainHits
  rw [playHits_frame]
  simp [hmb, hframes]

theorem SoundClean.snapState {c : Config Num32} (hw : ConfigWf c) {s : State} (h : SoundClean c s) :
    SoundClean c (Machine.snapState c s) := by
  obtain ⟨hmb, hframes⟩ := snapState_output c s
  exact
    { inv := h.inv.snapState hw
      voices := forall_voiceAt_snapState (voiceClean_newVoice hw) h.voices
      output := ⟨by rw [hmb]; exact h.output.bus, by rw [hframes]; exact h.output.emitted⟩ }

theorem SoundClean.tick {c : Config Num32} (hw : ConfigWf c) (htame : Tame c) {sr : BitVec 32} (hsr : 8000 ≤ sr.toNat)
    {s : State} (h : SoundClean c s) : SoundClean c (Machine.tick c sr s) where
  inv := h.inv.tick sr
  voices := fun i => by
    rw [tick_voices, voicesAfter_get]
    exact voiceClean_voiceStep hw htame h.inv.snapshot hsr (h.inv.pool i) (h.voices i)
  output := h.output.tick hw h.inv.snapshot fun i _ hy =>
    unitMagnitude_voiceStep_out hw htame h.inv.snapshot hsr (h.inv.pool i) (h.voices i) hy

theorem SoundClean.ticks {c : Config Num32} (hw : ConfigWf c) (htame : Tame c) {sr : BitVec 32} (hsr : 8000 ≤ sr.toNat)
    (n : Nat) {s : State} (h : SoundClean c s) : SoundClean c (Machine.ticks c sr n s) := by
  induction n generalizing s with
  | zero => exact h
  | succ n ih => exact ih (h.tick hw htame hsr)

/-- Settles O57: the operations other than a tick replace records by clean ones or leave the sound alone; a tick keeps every
phase in its cycle, every filter state within a power of two, and every sample within 1. -/
theorem everyCommandKeepsSoundClean : Obligations.EveryCommandKeepsSoundClean := by
  intro c hw htame
  refine ⟨soundClean_powerOn hw, fun s h => ⟨h.prepareState hw, h.allocate hw, h.snapState hw, h.ctlEffect hw, ?_⟩⟩
  intro n t ht
  obtain ⟨sr, hsr, rfl⟩ := renderState_eq_next ht
  exact h.ticks hw htame (h.inv.rate sr hsr) n

end Sys2Proof.Machine

/-! ### Words over a byte transport (20_memory.md R64) -/

namespace Sys2Proof

/-- The four bytes of a word, the most significant first, are the word. -/
theorem bytes_append (w : Word) :
    (w.extractLsb' 24 8 ++ w.extractLsb' 16 8 ++ w.extractLsb' 8 8 ++ w.extractLsb' 0 8 : Word) = w := by
  have high : w.extractLsb' 24 8 ++ w.extractLsb' 16 8 = w.extractLsb' 16 16 :=
    BitVec.extractLsb'_append_extractLsb'_eq_extractLsb' rfl
  have upper : w.extractLsb' 16 16 ++ w.extractLsb' 8 8 = w.extractLsb' 8 24 :=
    BitVec.extractLsb'_append_extractLsb'_eq_extractLsb' rfl
  have whole : w.extractLsb' 8 24 ++ w.extractLsb' 0 8 = w.extractLsb' 0 32 :=
    BitVec.extractLsb'_append_extractLsb'_eq_extractLsb' rfl
  rw [high, upper, whole, BitVec.extractLsb'_eq_self]

/-- The bytes of a word, whatever bytes follow, are read as that word. -/
theorem wordsOfBytes_bytesOfWord_append (o : ByteOrder) (w : Word) (rest : List Byte) :
    wordsOfBytes o (bytesOfWord o w ++ rest) = w :: wordsOfBytes o rest := by
  cases o with
  | little => exact congrArg (· :: wordsOfBytes .little rest) (bytes_append w)
  | big => exact congrArg (· :: wordsOfBytes .big rest) (bytes_append w)

end Sys2Proof

namespace Sys2Proof.Machine

/-- Settles O5: word by word, each read back from its four bytes. -/
theorem byteTransportGivesWordsBack : Obligations.ByteTransportGivesWordsBack := by
  refine ⟨fun o ws => ?_, fun w => rfl⟩
  induction ws with
  | nil => rfl
  | cons w ws ih => rw [List.flatMap_cons, wordsOfBytes_bytesOfWord_append, ih]

/-! ### Half-sent commands (20_memory.md R65) -/

theorem fetchFrom_aud_held (w v : Word) (ctl : Option Word) (rest : List Arrival) :
    fetchFrom (some w) ctl (⟨.aud, v⟩ :: rest) = .command .aud w v none ctl rest := rfl

theorem fetchFrom_ctl_held (w v : Word) (aud : Option Word) (rest : List Arrival) :
    fetchFrom aud (some w) (⟨.ctl, v⟩ :: rest) = .command .ctl w v aud none rest := rfl

theorem fetchFrom_aud_half {w : Word} (h : cmdWords w = 2) (ctl : Option Word) :
    fetchFrom none ctl [⟨.aud, w⟩] = .waiting (some w) ctl := by
  simp [fetchFrom, h]

theorem fetchFrom_ctl_half {w : Word} (h : cmdWords w = 2) (aud : Option Word) :
    fetchFrom aud none [⟨.ctl, w⟩] = .waiting aud (some w) := by
  simp [fetchFrom, h]

/-- A step with no complete command only moves the words from the inbox to the ports. -/
theorem step_of_waiting {s : State} {aud ctl : Option Word} (hf : fetch s = .waiting aud ctl) :
    step s = .next { s with audHeld := aud, ctlHeld := ctl, inbox := [] } := by
  rw [step, hf]
  rfl

/-- Settles O10: in each case the fetch is known, and the step with it. -/
theorem halfCommandWaits : Obligations.HalfCommandWaits := by
  intro s w
  refine ⟨fun hin => ?_, fun hw => ⟨fun haud hin => ?_, fun hctl hin => ?_, fun v rest i =>
    ⟨fun haud hctl hin hv hd => ?_, fun hctl haud hin hv hd => ?_, fun haud hin hd => ?_, fun hctl hin hd => ?_⟩⟩⟩
  · have hf : fetch s = .waiting s.audHeld s.ctlHeld := by rw [fetch, hin]; rfl
    rw [step_of_waiting hf, ← hin]
  · have hf : fetch s = .waiting (some w) s.ctlHeld := by rw [fetch, haud, hin, fetchFrom_aud_half hw]
    rw [step_of_waiting hf]
  · have hf : fetch s = .waiting s.audHeld (some w) := by rw [fetch, hctl, hin, fetchFrom_ctl_half hw]
    rw [step_of_waiting hf]
  · have hf : fetch s = .command .ctl v 0 s.audHeld none rest := by
      rw [fetch, hctl, hin, fetchFrom_ctl_one (by omega)]
    rw [stepRunsDecodedInstruction s _ _ _ _ _ _ i hf hd, ← hctl]
  · have hf : fetch s = .command .aud v 0 none s.ctlHeld rest := by
      rw [fetch, haud, hin, fetchFrom_aud_one (by omega)]
    rw [stepRunsDecodedInstruction s _ _ _ _ _ _ i hf hd, ← haud]
  · have hf : fetch s = .command .aud w v none s.ctlHeld rest := by rw [fetch, haud, hin, fetchFrom_aud_held]
    rw [stepRunsDecodedInstruction s _ _ _ _ _ _ i hf hd]
  · have hf : fetch s = .command .ctl w v s.audHeld none rest := by rw [fetch, hctl, hin, fetchFrom_ctl_held]
    rw [stepRunsDecodedInstruction s _ _ _ _ _ _ i hf hd]

/-! ### Parameter reads after a write (20_memory.md R66, R69) -/

/-- `SETP` of a register with an operand that is no NaN writes the clamped operand (44_host_commands.md R213). -/
theorem setParam_of_not_nan {c : Config Num32} (hc : c.num = F32.format) {pid : BitVec 6} (h : pid.toNat < 46)
    {val : Word} (hval : F32.isNaN val = false) (s : State) :
    setParam c pid val s =
      writePsh ⟨pid.toNat, h⟩ (c.clamp val (c.pspec ⟨pid.toNat, h⟩).lo (c.pspec ⟨pid.toNat, h⟩).hi) s := by
  have hbits : numOfBits c val = val := by rw [numOfBits, hc]; rfl
  have hnan : c.num.isNaN val = false := by rw [hc]; exact hval
  simp [setParam, regOf_eq_some h, hbits, paramValue, hnan]

theorem paramWord_eq {c : Config Num32} {pid : BitVec 6} (h : pid.toNat < 46) (s : State) :
    paramWord c pid s = numToBits c (regRead s.psh ⟨pid.toNat, h⟩) := by
  simp [paramWord, regOf_eq_some h]

/-- A write of one register does not show in what `GETP` answers of another id. -/
theorem paramWord_writePsh_of_ne {c : Config Num32} {pid other : BitVec 6} (hne : other ≠ pid) (h : pid.toNat < 46)
    (x : Num32) (s : State) : paramWord c other (writePsh ⟨pid.toNat, h⟩ x s) = paramWord c other s := by
  rcases Nat.lt_or_ge other.toNat 46 with hreg | hnone
  · have hids : (⟨pid.toNat, h⟩ : Fin 46) ≠ ⟨other.toNat, hreg⟩ :=
      fun heq => hne (BitVec.eq_of_toNat_eq (Fin.mk.inj heq).symm)
    rw [paramWord_eq hreg, paramWord_eq hreg, writePsh_psh, regRead_set, if_neg hids]
  · simp [paramWord, regOf_eq_none hnone]

/-- A number goes out as its own bit pattern (30_encoding.md R92). -/
theorem numToBits_of_not_nan {c : Config Num32} (hc : c.num = F32.format) {x : Num32} (h : F32.isNaN x = false) :
    numToBits c x = x := by
  rw [numToBits, hc]
  simp [F32.format, F32.toBits, h]

/-- Settles O17: the register holds the clamped operand, which is a number, so it is answered bit for bit. -/
theorem writeVisibleOnBothPorts : Obligations.WriteVisibleOnBothPorts := by
  intro s t pid val q h hval hexec
  have ht : t = setParam cfg pid val s := by cases hexec; rfl
  rw [setParam_of_not_nan rfl h hval] at ht
  subst ht
  obtain ⟨hlo, -⟩ := within_clamp (c := cfg) rfl (pspec_lo_le_hi cfg_wf ⟨pid.toNat, h⟩) val
  obtain ⟨-, hnum, -⟩ := F32.le_iff.1 hlo
  refine ⟨?_, fun other hne => paramWord_writePsh_of_ne hne h _ s⟩
  change Host.Outcome.next (respond q (paramWord cfg pid _) _) = _
  rw [paramWord_eq h, writePsh_psh, regRead_set, if_pos rfl, numToBits_of_not_nan rfl hnum]

/-! ### The reads of a SNAP (20_memory.md R70; log 14) -/

/-- The banks that a SNAP can read begin with the shadow bank before it and end with the one after it. -/
theorem overlapCtl_banks_ends (c : Config Num32) (n fuel j : Nat) (s : State) :
    (overlapCtl c n fuel j s).banks.head? = some s.psh ∧
      (overlapCtl c n fuel j s).banks.getLast? = some (overlapCtl c n fuel j s).after.psh := by
  induction fuel generalizing j s with
  | zero => exact ⟨rfl, rfl⟩
  | succ fuel ih =>
    unfold overlapCtl
    split
    · exact ⟨rfl, rfl⟩
    · rename_i w0 w1 s' _
      split
      · obtain ⟨-, hlast⟩ := ih (j + 1) (ctlEffect c (decode w0 w1) s')
        exact ⟨rfl, by simp [List.getLast?_cons, hlast]⟩
      · exact ⟨rfl, rfl⟩

/-- Which commands fall inside a SNAP does not depend on the order of its reads. -/
theorem overlapCtl_snapRead (c : Config Num32) (reads : Nat → Nat → Nat) (n fuel j : Nat) (s : State) :
    overlapCtl { c with snapRead := reads } n fuel j s = overlapCtl c n fuel j s := by
  induction fuel generalizing j s with
  | zero => rfl
  | succ fuel ih =>
    have hctl : ∀ d u, ctlEffect { c with snapRead := reads } d u = ctlEffect c d u := fun _ _ => rfl
    simp only [overlapCtl, hctl, ih]

@[simp] theorem drainHits_psh (c : Config Num32) (s : State) : (drainHits c s).psh = s.psh := by
  rw [drainHits, playHits_frame, setMask_psh]

@[simp] theorem drainHits_snap (c : Config Num32) (s : State) : (drainHits c s).snap = s.snap := by
  rw [drainHits, playHits_frame, setMask_snap]

theorem snapState_psh (c : Config Num32) (s : State) :
    (snapState c s).psh = (overlapCtl c s.snaps s.inbox.length 0 s).after.psh := by
  rw [snapState, drainHits_psh, countSnap_psh, latchSnap_psh]

theorem snapState_snap (c : Config Num32) (s : State) :
    (snapState c s).snap = latched c s.snaps (overlapCtl c s.snaps s.inbox.length 0 s).banks s.psh := by
  rw [snapState, drainHits_snap, countSnap_snap, latchSnap_snap]

/-- A read after fewer commands than there are banks meets the bank of that number. -/
theorem bankAt_of_lt {banks : List (Bank Num32)} {k : Nat} (h : k < banks.length) (now : Bank Num32) :
    bankAt banks k now = banks.getD k now := by
  unfold bankAt
  split
  · obtain rfl : k = 0 := by simpa using h
    rfl
  · rw [Nat.mod_eq_of_lt h]

/-- With `SNAP_ATOMIC` one bank is latched whole. -/
theorem latched_of_atomic {c : Config Num32} (h : c.snapAtomic = true) (n : Nat) (banks : List (Bank Num32))
    (now : Bank Num32) : latched c n banks now = bankAt banks (c.snapRead n 46) now := by
  ext i hi
  simp [latched, h, regRead]

/-- Without it each register is read after its own number of commands. -/
theorem regRead_latched_of_not_atomic {c : Config Num32} (h : c.snapAtomic = false) (n : Nat)
    (banks : List (Bank Num32)) (now : Bank Num32) (id : Fin 46) :
    regRead (latched c n banks now) id = regRead (bankAt banks (c.snapRead n id.val) now) id := by
  simp [latched, h, regRead]

/-- Settles O21: the shadow bank before the SNAP is the first of the banks, so every read meets one of them. -/
theorem snapReadsEachRegisterAtOneMoment : Obligations.SnapReadsEachRegisterAtOneMoment := by
  refine ⟨fun s hport => onAud_of_aud hport _, fun c s => ?_⟩
  set banks := (overlapCtl c s.snaps s.inbox.length 0 s).banks
  obtain ⟨hhead, hlast⟩ := overlapCtl_banks_ends c s.snaps s.inbox.length 0 s
  have hmem : ∀ b ∈ s.psh :: banks, b ∈ banks :=
    List.forall_mem_cons.2 ⟨List.mem_of_head? hhead, fun _ hb => hb⟩
  refine ⟨hhead, hlast, snapState_psh c s, fun id => ?_, fun hatomic => ?_⟩
  · obtain ⟨b, hb, hread⟩ := regRead_latched c s.snaps banks s.psh id
    exact ⟨b, hmem b hb, by rw [snapState_snap, hread]⟩
  · exact ⟨_, hmem _ (bankAt_mem banks _ s.psh), by rw [snapState_snap, latched_of_atomic hatomic]⟩

/-- The order of the reads that takes each register at its chosen moment; a number that names no register is read first. -/
def readsAt (moment : Fin 46 → Nat) (_ k : Nat) : Nat := if h : k < 46 then moment ⟨k, h⟩ else 0

theorem readsAt_val (moment : Fin 46 → Nat) (n : Nat) (id : Fin 46) : readsAt moment n id.val = moment id := by
  simp [readsAt]

/-- Reads in that order latch each register from the bank of its moment. -/
theorem regRead_latched_readsAt {c : Config Num32} (hatomic : c.snapAtomic = false) {banks : List (Bank Num32)}
    {moment : Fin 46 → Nat} {id : Fin 46} (h : moment id < banks.length) (n : Nat) (now : Bank Num32) :
    regRead (latched { c with snapRead := readsAt moment } n banks now) id = regRead (banks.getD (moment id) now) id := by
  rw [← bankAt_of_lt h, ← readsAt_val moment n id]
  exact regRead_latched_of_not_atomic (c := { c with snapRead := readsAt moment }) hatomic n banks now id

/-- Settles O22: the chosen moments, taken as the order of the reads, meet the same banks. -/
theorem snapshotMayMixOldAndNew : Obligations.SnapshotMayMixOldAndNew := by
  intro c s moment hatomic banks hmoment
  refine ⟨readsAt moment, fun id => ?_⟩
  rw [snapState_snap, overlapCtl_snapRead]
  exact regRead_latched_readsAt hatomic (hmoment id) s.snaps s.psh

/-! ### A render and what CTL can write (20_memory.md R72) -/

/-- Two states that agree in all that a tick reads: the voice file, the snapshot bank, the bus and the output. -/
structure SoundAgrees (s t : State) : Prop where
  voices : s.voices = t.voices
  snap : s.snap = t.snap
  mb : s.mb = t.mb
  frames : s.frames = t.frames

theorem SoundAgrees.tick {s t : State} (h : SoundAgrees s t) (c : Config Num32) (sr : BitVec 32) :
    SoundAgrees (Machine.tick c sr s) (Machine.tick c sr t) where
  voices := by rw [tick_voices, tick_voices, h.voices, h.snap]
  snap := by rw [tick_snap, tick_snap, h.snap]
  mb := by rw [tick_mb, tick_mb, h.voices, h.snap, h.mb]
  frames := by rw [tick_frames, tick_frames, h.voices, h.snap, h.mb, h.frames]

theorem SoundAgrees.ticks {s t : State} (h : SoundAgrees s t) (c : Config Num32) (sr : BitVec 32) (n : Nat) :
    SoundAgrees (Machine.ticks c sr n s) (Machine.ticks c sr n t) := by
  induction n generalizing s t with
  | zero => exact h
  | succ n ih => exact ih (h.tick c sr)

/-- Settles O46: a tick keeps two states in agreement. -/
theorem renderDoesNotSeeControl : Obligations.RenderDoesNotSeeControl := by
  intro c sr n s t hvoices hsnap hmb hframes
  obtain ⟨voices, -, mb, frames⟩ := SoundAgrees.ticks ⟨hvoices, hsnap, hmb, hframes⟩ c sr n
  exact ⟨voices, mb, frames⟩

/-- What `SETP` writes does not depend on the state: in every state nothing, or the same value in the same register. -/
theorem setParam_uniform (c : Config Num32) (pid : BitVec 6) (val : Word) :
    (∀ s, setParam c pid val s = s) ∨ ∃ id x, ∀ s, setParam c pid val s = writePsh id x s := by
  unfold setParam
  split
  · exact .inl fun _ => rfl
  · rename_i id _
    split
    · exact .inl fun _ => rfl
    · rename_i x _
      exact .inr ⟨id, x, fun _ => rfl⟩

/-- A tick neither reads nor writes the shadow bank. -/
theorem setParam_tick (c : Config Num32) (sr : BitVec 32) (pid : BitVec 6) (val : Word) (s : State) :
    setParam c pid val (tick c sr s) = tick c sr (setParam c pid val s) := by
  obtain hnone | ⟨id, x, hwrite⟩ := setParam_uniform c pid val
  · rw [hnone, hnone]
  · rw [hwrite, hwrite]
    rfl

theorem respond_tick (c : Config Num32) (sr : BitVec 32) (p : Port) (w : Word) (s : State) :
    respond p w (tick c sr s) = tick c sr (respond p w s) := by
  cases p <;> simp only [respond, tick]

theorem paramWord_tick (c : Config Num32) (sr : BitVec 32) (pid : BitVec 6) (s : State) :
    paramWord c pid (tick c sr s) = paramWord c pid s := by
  simp only [paramWord, tick_psh]

/-- A tick neither reads nor writes the responses, and `GETP` answers from the shadow bank. -/
theorem getParam_tick (c : Config Num32) (sr : BitVec 32) (p : Port) (pid : BitVec 6) (s : State) :
    getParam c p pid (tick c sr s) = tick c sr (getParam c p pid s) := by
  rw [getParam, getParam, paramWord_tick, respond_tick]

/-- A tick neither reads nor writes the debug mask. -/
theorem requestHit_tick (c : Config Num32) (sr : BitVec 32) (dt : DrumType) (s : State) :
    requestHit dt (tick c sr s) = tick c sr (requestHit dt s) := by
  rw [requestHit, requestHit, tick_dbgmask]
  rfl

/-- A CTL command and one tick commute: neither reads or writes what the other writes. -/
theorem ctlEffect_tick (c : Config Num32) (sr : BitVec 32) (d : Decoded) (s : State) :
    ctlEffect c d (tick c sr s) = tick c sr (ctlEffect c d s) := by
  cases d with
  | illegal why => rfl
  | instr i =>
    cases i with
    | setp pid val => exact setParam_tick c sr pid val s
    | getp pid => exact getParam_tick c sr .ctl pid s
    | dbghit dt => exact requestHit_tick c sr dt s
    | _ => simp only [ctlEffect, ignored_eq]

/-- Settles O47: tick by tick. -/
theorem ctlCommutesWithTicks : Obligations.CtlCommutesWithTicks := by
  intro c sr n d s
  induction n generalizing s with
  | zero => rfl
  | succ n ih => rw [ticks_succ, ticks_succ, ← ctlEffect_tick, ih]

end Sys2Proof.Machine

/-! ### The decoder on a word split at its opcode (30_encoding.md R82 to R97) -/

namespace Sys2Proof.Laws

/-- A first word is its opcode and the 28 bits below it (R82). -/
theorem header_cmdOp_low (w : Word) : header (cmdOp w) (w.extractLsb' 0 28) = w :=
  BitVec.extractLsb'_append_extractLsb'

theorem ifZero_eq_instr_iff {n : Nat} {r : BitVec n} {w0 : Word} {i j : Instr} :
    ifZero r w0 i = .instr j ↔ r = 0#n ∧ i = j := by
  unfold ifZero
  split <;> simp_all

theorem ifZero_eq_illegal_iff {n : Nat} {r : BitVec n} {w0 : Word} {i : Instr} {op : BitVec 4} :
    ifZero r w0 i = .illegal (.reservedBits op) ↔ r ≠ 0#n ∧ cmdOp w0 = op := by
  unfold ifZero
  split <;> simp_all

/-- The rows of the opcode map (R90): the eight commands, and the reserved opcodes. -/
theorem opcode_cases : ∀ op : BitVec 4,
    op = 0 ∨ op = 1 ∨ op = 2 ∨ op = 3 ∨ op = 4 ∨ op = 5 ∨ op = 6 ∨ op = 7 ∨ 8 ≤ op.toNat := by decide

section
variable (low : BitVec 28) (w1 : Word)

theorem decode_header_nop : decode (header 0 low) w1 = ifZero low (header 0 low) .nop := by
  simp [decode, cmdOp_header, low_header]

theorem decode_header_prepare :
    decode (header 1 low) w1 = ifZero (low.extractLsb' 16 12) (header 1 low) (.prepare (low.extractLsb' 0 16) w1) := by
  simp [decode, cmdOp_header, extractLsb'_header]

theorem decode_header_setp :
    decode (header 2 low) w1 = ifZero (low.extractLsb' 6 22) (header 2 low) (.setp (low.extractLsb' 0 6) w1) := by
  simp [decode, cmdOp_header, extractLsb'_header]

theorem decode_header_getp :
    decode (header 3 low) w1 = ifZero (low.extractLsb' 6 22) (header 3 low) (.getp (low.extractLsb' 0 6)) := by
  simp [decode, cmdOp_header, extractLsb'_header]

theorem decode_header_snap : decode (header 4 low) w1 = ifZero low (header 4 low) .snap := by
  simp [decode, cmdOp_header, low_header]

theorem decode_header_trig :
    decode (header 5 low) w1 =
      ifZero (low.extractLsb' 27 1) (header 5 low)
        (.trig (drumOfCode (low.extractLsb' 24 3)) (low.extractLsb' 0 24) w1) := by
  simp [decode, cmdOp_header, extractLsb'_header]

theorem decode_header_render :
    decode (header 6 low) w1 = ifZero (low.extractLsb' 16 12) (header 6 low) (.render (low.extractLsb' 0 16)) := by
  simp [decode, cmdOp_header, extractLsb'_header]

theorem decode_header_dbghit :
    decode (header 7 low) w1 =
      ifZero (low.extractLsb' 27 1 ++ low.extractLsb' 0 24) (header 7 low)
        (.dbghit (drumOfCode (low.extractLsb' 24 3))) := by
  simp [decode, cmdOp_header, extractLsb'_header]

end

/-! ### The fields of the formats make up the 28 bits -/

@[simp] theorem drumCode_drumOfCode : ∀ b : BitVec 3, drumCode (drumOfCode b) = b := by decide

/-- Formats P and N (R84, R87). -/
theorem append_twelve_sixteen (low : BitVec 28) : low.extractLsb' 16 12 ++ low.extractLsb' 0 16 = low :=
  BitVec.extractLsb'_append_extractLsb'

/-- Format I (R85). -/
theorem append_twentytwo_six (low : BitVec 28) : low.extractLsb' 6 22 ++ low.extractLsb' 0 6 = low :=
  BitVec.extractLsb'_append_extractLsb'

/-- Formats T and D (R86, R89). -/
theorem append_one_three_twentyfour (low : BitVec 28) :
    low.extractLsb' 27 1 ++ low.extractLsb' 24 3 ++ low.extractLsb' 0 24 = low := by
  have hupper : low.extractLsb' 27 1 ++ low.extractLsb' 24 3 = low.extractLsb' 24 4 :=
    BitVec.extractLsb'_append_extractLsb'_eq_extractLsb' rfl
  rw [hupper]
  exact BitVec.extractLsb'_append_extractLsb'

theorem append_eq_zero_iff {m n : Nat} {x : BitVec m} {y : BitVec n} :
    x ++ y = 0#(m + n) ↔ x = 0#m ∧ y = 0#n := by
  constructor
  · intro h
    have hx : (x ++ y).extractLsb' n m = x := BitVec.extractLsb'_append_eq_left
    have hy : (x ++ y).extractLsb' 0 n = y := BitVec.extractLsb'_append_eq_right
    rw [h, BitVec.extractLsb'_zero] at hx hy
    exact ⟨hx.symm, hy.symm⟩
  · rintro ⟨rfl, rfl⟩
    exact BitVec.zero_append_zero

/-! ### Every word has one meaning -/

/-- The encoder writes for `i` the word of `op` and `low`, and after it `w1` where the opcode takes two words (R81). -/
def IsEncodingOf (op : BitVec 4) (low : BitVec 28) (w1 : Word) (i : Instr) : Prop :=
  encode i = if op = 1 ∨ op = 2 ∨ op = 5 then [header op low, w1] else [header op low]

/-- Each of the eight commands is decoded when the reserved field `r` of its format is zero, so it is enough that the encoder
gives the words back in that case. -/
theorem encode_of_ifZero {op : BitVec 4} {low : BitVec 28} {w1 : Word} {n : Nat} {r : BitVec n} {i j : Instr}
    (hd : decode (header op low) w1 = ifZero r (header op low) i) (hwf : i.wellFormed = true)
    (he : r = 0#n → IsEncodingOf op low w1 i) (h : decode (header op low) w1 = .instr j) :
    j.wellFormed = true ∧ IsEncodingOf op low w1 j := by
  rw [hd, ifZero_eq_instr_iff] at h
  obtain ⟨hr, rfl⟩ := h
  exact ⟨hwf, he hr⟩

/-- What decodes to an instruction is what the encoder writes for it: a zero reserved field and the operands make up the low
28 bits, and a reserved opcode keeps them all. -/
theorem encode_of_decode_header (op : BitVec 4) {low : BitVec 28} {w1 : Word} {i : Instr}
    (h : decode (header op low) w1 = .instr i) : i.wellFormed = true ∧ IsEncodingOf op low w1 i := by
  have hP := append_twelve_sixteen low
  have hI := append_twentytwo_six low
  have hT := append_one_three_twentyfour low
  obtain rfl | rfl | rfl | rfl | rfl | rfl | rfl | rfl | hop := opcode_cases op
  · exact encode_of_ifZero (decode_header_nop low w1) rfl (fun hr => by rw [hr]; rfl) h
  · exact encode_of_ifZero (decode_header_prepare low w1) rfl
      (fun hr => by rw [hr] at hP; rw [IsEncodingOf, encode, hP]; rfl) h
  · exact encode_of_ifZero (decode_header_setp low w1) rfl
      (fun hr => by rw [hr] at hI; rw [IsEncodingOf, encode, hI]; rfl) h
  · exact encode_of_ifZero (decode_header_getp low w1) rfl
      (fun hr => by rw [hr] at hI; rw [IsEncodingOf, encode, hI]; rfl) h
  · exact encode_of_ifZero (decode_header_snap low w1) rfl (fun hr => by rw [hr]; rfl) h
  · exact encode_of_ifZero (decode_header_trig low w1) rfl
      (fun hr => by rw [hr] at hT; rw [IsEncodingOf, encode, drumCode_drumOfCode, hT]; rfl) h
  · exact encode_of_ifZero (decode_header_render low w1) rfl
      (fun hr => by rw [hr] at hP; rw [IsEncodingOf, encode, hP]; rfl) h
  · refine encode_of_ifZero (decode_header_dbghit low w1) rfl (fun hr => ?_) h
    obtain ⟨hhigh, hlow⟩ := append_eq_zero_iff.1 hr
    rw [hhigh, hlow] at hT
    rw [IsEncodingOf, encode, drumCode_drumOfCode, hT]
    rfl
  · rw [decode_reserved hop] at h
    cases h
    have hone : ¬ (op = 1 ∨ op = 2 ∨ op = 5) := by rintro (rfl | rfl | rfl) <;> simp at hop
    exact ⟨by simpa [Instr.wellFormed] using hop, (if_neg hone).symm⟩

/-! ### Reserved bits (R90, R96) -/

/-- What the mask of an opcode's row holds below the opcode: the reserved bits of its format (R90). -/
def reservedMask (op : BitVec 4) : BitVec 28 :=
  match op.toNat with
  | 0 | 4 => BitVec.allOnes 28
  | 1 | 6 => BitVec.allOnes 12 ++ 0#16
  | 2 | 3 => BitVec.allOnes 22 ++ 0#6
  | 5 => BitVec.allOnes 1 ++ 0#3 ++ 0#24
  | 7 => BitVec.allOnes 1 ++ 0#3 ++ BitVec.allOnes 24
  | _ => 0

/-- A mask that holds an upper field and some bits `m` of the lower one. -/
theorem append_and_eq_zero_iff {k n : Nat} (x : BitVec k) (y m : BitVec n) :
    (x ++ y) &&& (BitVec.allOnes k ++ m) = 0#(k + n) ↔ x = 0#k ∧ y &&& m = 0#n := by
  rw [BitVec.and_append, BitVec.and_allOnes, append_eq_zero_iff]

theorem and_mask_twelve_sixteen (low : BitVec 28) :
    low &&& (BitVec.allOnes 12 ++ 0#16) = 0 ↔ low.extractLsb' 16 12 = 0 := by
  conv_lhs => rw [← append_twelve_sixteen low]
  exact (append_and_eq_zero_iff _ _ _).trans (and_iff_left BitVec.and_zero)

theorem and_mask_twentytwo_six (low : BitVec 28) :
    low &&& (BitVec.allOnes 22 ++ 0#6) = 0 ↔ low.extractLsb' 6 22 = 0 := by
  conv_lhs => rw [← append_twentytwo_six low]
  exact (append_and_eq_zero_iff _ _ _).trans (and_iff_left BitVec.and_zero)

/-- In format T the low 24 bits are an operand, in format D they are reserved: `m` is what the mask holds of them. -/
theorem and_mask_one_three_twentyfour (low : BitVec 28) (m : BitVec 24) :
    low &&& (BitVec.allOnes 1 ++ 0#3 ++ m) = 0 ↔ low.extractLsb' 27 1 = 0 ∧ low.extractLsb' 0 24 &&& m = 0 := by
  conv_lhs => rw [← append_one_three_twentyfour low]
  rw [BitVec.and_append]
  exact append_eq_zero_iff.trans
    (and_congr_left' ((append_and_eq_zero_iff _ _ _).trans (and_iff_left BitVec.and_zero)))

/-- For each of the eight commands it is enough that the mask selects the reserved field `r` of the format. -/
theorem illegal_iff_of_ifZero {op : BitVec 4} {low : BitVec 28} {w1 : Word} {n : Nat} {r : BitVec n} {i : Instr}
    (hop : op.toNat < 8) (hd : decode (header op low) w1 = ifZero r (header op low) i)
    (hr : low &&& reservedMask op = 0 ↔ r = 0#n) :
    decode (header op low) w1 = .illegal (.reservedBits op) ↔ op.toNat < 8 ∧ low &&& reservedMask op ≠ 0 := by
  rw [hd, ifZero_eq_illegal_iff, cmdOp_header, ne_eq, ne_eq, hr]
  exact ⟨fun h => ⟨hop, h.1⟩, fun h => ⟨h.2, rfl⟩⟩

/-- A word is `ILLEGAL` exactly when its opcode is that of a command and a reserved bit of its format is set (R96). -/
theorem decode_header_eq_illegal_iff (op : BitVec 4) (low : BitVec 28) (w1 : Word) :
    decode (header op low) w1 = .illegal (.reservedBits op) ↔ op.toNat < 8 ∧ low &&& reservedMask op ≠ 0 := by
  have hZ : low &&& BitVec.allOnes 28 = 0 ↔ low = 0 := by rw [BitVec.and_allOnes]
  obtain rfl | rfl | rfl | rfl | rfl | rfl | rfl | rfl | hop := opcode_cases op
  · exact illegal_iff_of_ifZero (by decide) (decode_header_nop low w1) hZ
  · exact illegal_iff_of_ifZero (by decide) (decode_header_prepare low w1) (and_mask_twelve_sixteen low)
  · exact illegal_iff_of_ifZero (by decide) (decode_header_setp low w1) (and_mask_twentytwo_six low)
  · exact illegal_iff_of_ifZero (by decide) (decode_header_getp low w1) (and_mask_twentytwo_six low)
  · exact illegal_iff_of_ifZero (by decide) (decode_header_snap low w1) hZ
  · exact illegal_iff_of_ifZero (by decide) (decode_header_trig low w1)
      ((and_mask_one_three_twentyfour low 0).trans (and_iff_left BitVec.and_zero))
  · exact illegal_iff_of_ifZero (by decide) (decode_header_render low w1) (and_mask_twelve_sixteen low)
  · refine illegal_iff_of_ifZero (by decide) (decode_header_dbghit low w1)
      ((and_mask_one_three_twentyfour low _).trans ?_)
    rw [BitVec.and_allOnes]
    exact append_eq_zero_iff.symm
  · rw [decode_reserved hop]
    exact ⟨nofun, fun h => absurd h.1 (Nat.not_lt.2 hop)⟩

/-- The match and the mask of the row of an opcode (R90). -/
def opcodeRow (op : BitVec 4) : Word × Word := (header op 0, header 15 (reservedMask op))

/-- A row selects the words of its opcode that have none of its reserved bits set. -/
theorem header_and_opcodeRow_iff (op row : BitVec 4) (low : BitVec 28) :
    header op low &&& (opcodeRow row).2 = (opcodeRow row).1 ↔ op = row ∧ low &&& reservedMask row = 0 := by
  have hand : header op low &&& (opcodeRow row).2 = header op (low &&& reservedMask row) :=
    BitVec.and_append.trans (congrArg (header · _) BitVec.and_allOnes)
  rw [hand]
  constructor
  · intro h
    have hop := congrArg cmdOp h
    have hlow := congrArg (BitVec.extractLsb' 0 28) h
    rw [opcodeRow, cmdOp_header, cmdOp_header] at hop
    rw [opcodeRow, low_header, low_header] at hlow
    exact ⟨hop, hlow⟩
  · rintro ⟨rfl, h⟩
    rw [h]
    rfl

/-- No row of the eight commands selects a word: its opcode is reserved, or one of its reserved bits is set. -/
theorem no_opcodeRow_iff (op : BitVec 4) (low : BitVec 28) :
    (∀ row ∈ ([0, 1, 2, 3, 4, 5, 6, 7] : List (BitVec 4)).map opcodeRow, header op low &&& row.2 ≠ row.1) ↔
      (op.toNat < 8 → low &&& reservedMask op ≠ 0) := by
  have hmem : op ∈ ([0, 1, 2, 3, 4, 5, 6, 7] : List (BitVec 4)) ↔ op.toNat < 8 := by
    revert op
    decide
  simp only [List.forall_mem_map, ne_eq, header_and_opcodeRow_iff, ← hmem]
  exact ⟨fun h hop hzero => h op hop ⟨rfl, hzero⟩, fun h row hrow ⟨heq, hzero⟩ => h (heq ▸ hrow) (heq ▸ hzero)⟩

/-! ### Streams of words (R81) -/

/-- The opcodes of the two-word commands. -/
theorem cmdWords_eq_two_iff (w : Word) : cmdWords w = 2 ↔ cmdOp w = 1 ∨ cmdOp w = 2 ∨ cmdOp w = 5 := by
  rw [← header_cmdOp_low w, cmdWords_header, cmdOp_header]
  split <;> simp_all

/-- As many words as the first one announces are the first command of a stream. -/
theorem decodeWords_words {w0 : Word} {ws : List Word} (h : ws.length + 1 = cmdWords w0) (rest : List Word) :
    decodeWords (w0 :: ws ++ rest) = .command (decode w0 (ws.headD 0)) rest := by
  obtain ⟨hone, rfl⟩ | ⟨htwo, w1, rfl⟩ := Machine.words_of_length h
  · simp [decodeWords, hone]
  · simp [decodeWords, htwo]

/-- Settles O1: the encoder writes as many words as the first announces, and they decode to the instruction. -/
theorem decodeEncodeRoundTrip : Obligations.DecodeEncodeRoundTrip := by
  intro i rest hi
  obtain ⟨w0, ws, he, hlen⟩ := encodedLength i hi
  rw [he, decodeWords_words hlen, decode_words_of_encode hi he]

/-- Settles O2: row by row of the opcode map. -/
theorem encodeOfDecodedWords : Obligations.EncodeOfDecodedWords := by
  intro w0 w1 i h
  rw [← header_cmdOp_low w0] at h
  obtain ⟨hwf, he⟩ := encode_of_decode_header _ h
  rw [IsEncodingOf, header_cmdOp_low] at he
  exact ⟨hwf, he.trans (if_congr (cmdWords_eq_two_iff w0).symm rfl rfl)⟩

/-- Settles O3: the word is split at its opcode, and the rows are those of the eight reserved masks. -/
theorem illegalIffNoOpcodeRowMatches : Obligations.IllegalIffNoOpcodeRowMatches := by
  intro w0 w1
  have hillegal := decode_header_eq_illegal_iff (cmdOp w0) (w0.extractLsb' 0 28) w1
  have hrows := no_opcodeRow_iff (cmdOp w0) (w0.extractLsb' 0 28)
  rw [header_cmdOp_low] at hillegal hrows
  have htable : ([0, 1, 2, 3, 4, 5, 6, 7] : List (BitVec 4)).map opcodeRow =
      [(0x00000000, 0xFFFFFFFF), (0x10000000, 0xFFFF0000), (0x20000000, 0xFFFFFFC0), (0x30000000, 0xFFFFFFC0),
        (0x40000000, 0xFFFFFFFF), (0x50000000, 0xF8000000), (0x60000000, 0xFFFF0000), (0x70000000, 0xF8FFFFFF)] := by
    decide
  rw [hillegal, ← htable, hrows]
  exact ⟨fun ⟨hop, hset⟩ => ⟨hop, fun _ => hset⟩, fun ⟨hop, hset⟩ => ⟨hop, hset hop⟩⟩

/-- Settles O4: two words are taken exactly for the opcodes of the two-word commands. -/
theorem lengthDecidedByOpcode : Obligations.LengthDecidedByOpcode := fun w0 _ _ =>
  if_congr (cmdWords_eq_two_iff w0) rfl rfl

/-- Settles O6: the decoder evaluated on each word of the table. -/
theorem workedEncodingsDecode : Obligations.WorkedEncodingsDecode := by
  unfold Obligations.WorkedEncodingsDecode
  decide

end Sys2Proof.Laws

/-! ### Commands that do nothing, and a render in two parts -/

namespace Sys2Proof.Machine

/-- Settles O9: an `ILLEGAL` word and a reserved opcode both end in `ignored`, after the words are taken. -/
theorem illegalWordChangesNothing : Obligations.IllegalWordChangesNothing := by
  intro s p w0 w1 aud ctl rest hf hd
  obtain ⟨why, hd⟩ | ⟨op, ignoredBits, hd⟩ := hd
  · rw [step_of_fetch hf, hd]
    rfl
  · rw [step_of_fetch hf, hd]
    rfl

/-- Settles O14: each of the four is permitted on AUD only. -/
theorem audCommandsIgnoredOnCtl : Obligations.AudCommandsIgnoredOnCtl := fun _ hp =>
  ⟨fun _ _ => onAud_of_ctl hp _, onAud_of_ctl hp _, fun _ _ _ => onAud_of_ctl hp _, fun _ => onAud_of_ctl hp _⟩

theorem ticks_sr (c : Config Num32) (sr : BitVec 32) (n : Nat) (s : State) : (ticks c sr n s).sr = s.sr := by
  rw [ticks_frame]

theorem ticks_port (c : Config Num32) (sr : BitVec 32) (n : Nat) (s : State) : (ticks c sr n s).port = s.port := by
  rw [ticks_frame]

theorem exec_render_of_aud {s : State} (h : s.port = .aud) (n : BitVec 16) :
    exec (.render n) s = renderState cfg n.toNat s := onAud_of_aud h _

theorem renderState_of_sr {c : Config Num32} {s : State} {sr : BitVec 32} (h : s.sr = some sr) (n : Nat) :
    renderState c n s = .next (ticks c sr n s) := by
  rw [renderState, h]

/-- Settles O44: the first part leaves the port and the rate, and the numbers of ticks add up. -/
theorem renderSplits : Obligations.RenderSplits := by
  intro s t a b hport hsum hexec
  rw [exec_render_of_aud hport] at hexec ⊢
  obtain ⟨sr, hsr, rfl⟩ := renderState_eq_next hexec
  rw [exec_render_of_aud ((ticks_port ..).trans hport), renderState_of_sr ((ticks_sr ..).trans hsr),
    renderState_of_sr hsr, BitVec.toNat_add_of_lt hsum, ticks_add]

end Sys2Proof.Machine

/-! ### The slot that an allocation selects (40_voice_pool.md R111, R112) -/

namespace Sys2Proof.Machine

section
variable {vs : Vector (Voice Num32) 32} {i : Fin 32}

theorem select_eq_of_lowest_free (hfree : (voiceAt vs i).active = false)
    (hbelow : ∀ j : Fin 32, j < i → (voiceAt vs j).active = true) : select vs = i := by
  rw [select, firstFree_eq_some.2 ⟨hfree, hbelow⟩]

theorem select_eq_oldest (hfull : ∀ j : Fin 32, (voiceAt vs j).active = true) : select vs = oldest vs := by
  rw [select, firstFree_eq_none.2 hfull]

/-- An active record is selected only when no record is free. -/
theorem active_of_active_select (h : (voiceAt vs (select vs)).active = true) (j : Fin 32) :
    (voiceAt vs j).active = true := by
  cases hf : firstFree vs with
  | none => exact firstFree_eq_none.1 hf j
  | some i =>
    obtain ⟨hfree, hbelow⟩ := firstFree_eq_some.1 hf
    rw [select_eq_of_lowest_free hfree hbelow, hfree] at h
    cases h

/-- The scan of `oldest` in ascending order ends at the record of greatest age that has only younger ones below it: it gets
there because what it holds before is younger, and stays because its comparison is strict. -/
theorem foldl_oldest_eq (hmax : ∀ j : Fin 32, (voiceAt vs j).sidx.toNat ≤ (voiceAt vs i).sidx.toNat)
    (hbelow : ∀ j : Fin 32, j < i → (voiceAt vs j).sidx.toNat < (voiceAt vs i).sidx.toNat) {l : List (Fin 32)}
    (hl : l.Pairwise (· < ·)) {b : Fin 32}
    (hb : b = i ∨ (voiceAt vs b).sidx.toNat < (voiceAt vs i).sidx.toNat ∧ i ∈ l) :
    l.foldl (fun best j => if (voiceAt vs best).sidx.toNat < (voiceAt vs j).sidx.toNat then j else best) b = i := by
  induction l generalizing b with
  | nil => simpa using hb
  | cons a l ih =>
    obtain ⟨hal, hl'⟩ := List.pairwise_cons.1 hl
    rw [List.foldl_cons]
    obtain rfl | ⟨hyounger, hmem⟩ := hb
    · rw [if_neg (Nat.not_lt.2 (hmax a))]
      exact ih hl' (.inl rfl)
    · obtain rfl | hil := List.mem_cons.1 hmem
      · rw [if_pos hyounger]
        exact ih hl' (.inl rfl)
      · refine ih hl' (.inr ⟨?_, hil⟩)
        split
        · exact hbelow a (hal i hil)
        · exact hyounger

theorem oldest_eq (hmax : ∀ j : Fin 32, (voiceAt vs j).sidx ≤ (voiceAt vs i).sidx)
    (hbelow : ∀ j : Fin 32, j < i → (voiceAt vs j).sidx < (voiceAt vs i).sidx) : oldest vs = i := by
  refine foldl_oldest_eq hmax hbelow (List.pairwise_lt_finRange 32) ?_
  obtain h0 | h0 := (Fin.zero_le i).eq_or_lt
  · exact .inl h0
  · exact .inr ⟨hbelow 0 h0, List.mem_finRange i⟩

end

/-! ### What `TRIG` writes (40_voice_pool.md R110, R113) -/

/-- `TRIG` on AUD writes every field of the selected record, and nothing else but the draw counter (log 10). -/
theorem exec_trig_of_select {s : State} {i : Fin 32} (hport : s.port = .aud) (hsel : select s.voices = i)
    (dt : DrumType) (off : BitVec 24) (vel : Word) :
    exec (.trig dt off vel) s = .next
      { s with
        voices := s.voices.set i
          { active := true
            dtype := some dt
            vel := velocityOf cfg vel
            sus := BitVec.ofNat 32 (max 0 off.toInt).toNat
            sidx := 0
            ph := #v[(cfg.draw s.draws).p0, (cfg.draw s.draws).p1, (cfg.draw s.draws).p2]
            ns := (cfg.draw s.draws).seed ||| 1
            tlp := 0 }
        draws := s.draws + 1 } := by
  have hexec : exec (.trig dt off vel) s = .next (allocate cfg dt (numOfBits cfg vel) (offsetOf off) s) :=
    onAud_of_aud hport _
  obtain rfl := hsel
  rw [hexec, allocate_eq, newVoice, zero_eq rfl]
  rfl

/-- Settles O23: the lowest free slot is the one selected. -/
theorem trigTakesLowestFreeSlot : Obligations.TrigTakesLowestFreeSlot := fun _ dt off vel _ hport hfree hbelow =>
  exec_trig_of_select hport (select_eq_of_lowest_free hfree hbelow) dt off vel

/-- Settles O24: with no free slot the oldest is selected, the lowest one on a tie. -/
theorem trigStealsOldestLowestSlot : Obligations.TrigStealsOldestLowestSlot :=
  fun _ dt off vel _ hport hfull hmax hbelow =>
    exec_trig_of_select hport ((select_eq_oldest hfull).trans (oldest_eq hmax hbelow)) dt off vel

/-! ### What an allocation does to the pool (40_voice_pool.md R114, R117) -/

theorem voiceAt_allocate_select (c : Config Num32) (dt : DrumType) (vel : Num32) (off : Int) (s : State) :
    voiceAt (allocate c dt vel off s).voices (select s.voices) = newVoice c (c.draw s.draws) dt vel off := by
  rw [allocate_eq, voiceAt_set, if_pos rfl]

theorem voiceAt_allocate_of_ne {j : Fin 32} {s : State} (h : j ≠ select s.voices) (c : Config Num32) (dt : DrumType)
    (vel : Num32) (off : Int) : voiceAt (allocate c dt vel off s).voices j = voiceAt s.voices j := by
  rw [allocate_eq, voiceAt_set, if_neg h.symm]

theorem activeCount_le (vs : Vector (Voice Num32) 32) : activeCount vs ≤ 32 :=
  Vector.countP_toList.trans_le Vector.countP_le_size

theorem activeCount_of_full {vs : Vector (Voice Num32) 32} (h : ∀ j : Fin 32, (voiceAt vs j).active = true) :
    activeCount vs = 32 := by
  refine Vector.countP_toList.trans (Vector.countP_eq_size.2 fun v hv => ?_)
  obtain ⟨j, hj, rfl⟩ := Vector.mem_iff_getElem.1 hv
  exact h ⟨j, hj⟩

/-- Writing an active record adds one to the count if the record written over was free. -/
theorem activeCount_set {v : Voice Num32} (hv : v.active = true) (vs : Vector (Voice Num32) 32) (i : Fin 32) :
    activeCount (vs.set i v) = if (voiceAt vs i).active then activeCount vs else activeCount vs + 1 := by
  simp only [activeCount, Vector.countP_toList, Vector.countP_set, hv, if_true]
  cases ha : (voiceAt vs i).active with
  | false =>
    rw [show vs[i.val].active = false from ha]
    rfl
  | true =>
    have hpos : 0 < vs.countP (·.active) := Vector.countP_pos_iff.2 ⟨vs[i], Vector.getElem_mem _, ha⟩
    rw [show vs[i.val].active = true from ha]
    exact Nat.sub_add_cancel hpos

/-- Settles O25: the record selected was free, and the count grows by one, or the pool was full, and the count stays 32. -/
theorem allocateChangesOneRecord : Obligations.AllocateChangesOneRecord := by
  intro c dt vel off s
  refine ⟨?_, fun j hj => voiceAt_allocate_of_ne hj c dt vel off, by rw [voiceAt_allocate_select]; rfl⟩
  have hset : activeCount (allocate c dt vel off s).voices = _ :=
    activeCount_set (v := newVoice c (c.draw s.draws) dt vel off) rfl s.voices (select s.voices)
  have hle := activeCount_le (allocate c dt vel off s).voices
  cases ha : (voiceAt s.voices (select s.voices)).active with
  | true =>
    have hfull := activeCount_of_full (active_of_active_select ha)
    rw [ha, if_pos rfl] at hset
    omega
  | false =>
    rw [ha, if_neg (by decide)] at hset
    omega

/-- Settles O26: the phases are those of the draw, and the seed is stored with bit 0 set. -/
theorem drawnPhasesAndSeedInRange : Obligations.DrawnPhasesAndSeedInRange := by
  intro c dt vel off s hc
  have hphase := isPhase_newVoice hc s.draws dt vel off
  rw [voiceAt_allocate_select]
  exact ⟨hphase 0, hphase 1, hphase 2, by simp [newVoice], or_one_ne_zero _⟩

/-! ### The life cycle of a record (10_state.md R31, 40_voice_pool.md R120 to R123) -/

theorem toNat_agePlus (x : BitVec 32) : (agePlus x).toNat = min (x.toNat + 1) (2 ^ 32 - 1) := by
  unfold agePlus
  split
  · subst_vars; rfl
  · bv_omega

section
variable {N : Type}

/-- A pending record starts to sound when its countdown passes from 1 to 0. -/
theorem lifeState_countdown {v : Voice N} (h : lifeState v = .pending) :
    lifeState { v with sus := v.sus - 1 } = if v.sus = 1 then .sounding else .pending := by
  obtain ⟨hactive, -⟩ := lifeState_eq_pending_iff.1 h
  simp only [lifeState, hactive, if_true, sub_eq_zero]

theorem drumAlgOf_of_some {v : Voice N} {k : DrumType} (hk : v.dtype = some k) (c : Config N) (snap : Bank N)
    (sr : BitVec 32) : drumAlgOf c snap sr v = drumAlg c snap sr k v := by
  rw [drumAlgOf, hk]

theorem voiceStep_of_expired {c : Config N} {snap : Bank N} {sr : BitVec 32} {v : Voice N} {k : DrumType}
    (hl : lifeState v = .sounding) (hk : v.dtype = some k) (he : expired c snap sr k v = true) :
    voiceStep c snap sr v = ⟨{ v with active := false, sidx := agePlus v.sidx }, some c.zero⟩ := by
  rw [voiceStep_of_sounding hl, drumAlgOf_of_some hk, drumAlg_of_expired he, afterInvocation, Bool.and_false]

theorem voiceStep_of_not_expired {c : Config N} {snap : Bank N} {sr : BitVec 32} {v : Voice N} {k : DrumType}
    (hl : lifeState v = .sounding) (hk : v.dtype = some k) (he : expired c snap sr k v = false) :
    voiceStep c snap sr v =
      ⟨{ v with
          sidx := agePlus v.sidx
          ph := (sound c snap sr k v).2.ph
          ns := xorshift32 v.ns
          tlp := (sound c snap sr k v).2.tlp }, some (sound c snap sr k v).1⟩ := by
  rw [voiceStep_of_sounding hl, drumAlgOf_of_some hk, drumAlg_of_not_expired he, afterInvocation, Bool.and_true,
    sound_frame]

end

/-- Settles O29: the two invocations of a drum algorithm, the retiring one and the sounding one. -/
theorem soundingVoiceRetiresOrAdvances : Obligations.SoundingVoiceRetiresOrAdvances := by
  intro N c snap sr v k hl hk
  refine ⟨fun he => ?_, fun he => ?_⟩
  · rw [voiceStep_of_expired hl hk he]
    exact ⟨rfl, rfl⟩
  · rw [voiceStep_of_not_expired hl hk he]

/-- Settles O28: the visit of a record by its state; a record of type NONE retires like an ended voice (log 20). -/
theorem lifeCycleOfOneTick : Obligations.LifeCycleOfOneTick := by
  intro N c snap sr v
  refine ⟨fun hl => ?_, fun hl => ?_, fun hl => ?_⟩
  · rw [voiceStep_of_free hl]
    exact ⟨rfl, rfl⟩
  · rw [voiceStep_of_pending hl]
    exact ⟨rfl, rfl, lifeState_countdown hl⟩
  · obtain ⟨hactive, hsus⟩ := lifeState_eq_sounding_iff.1 hl
    obtain ⟨hfree, -⟩ | ⟨-, hpending, -⟩ | ⟨-, he⟩ | ⟨-, -, k, -, -, he⟩ := voiceStep_cases c snap sr v
    · simp [hactive] at hfree
    · exact absurd hsus hpending
    · rw [he]
      exact ⟨rfl, by simp [lifeState], toNat_agePlus v.sidx⟩
    · rw [he, sound_frame]
      exact ⟨rfl, by simp [lifeState, hactive, hsus], toNat_agePlus v.sidx⟩

/-- One tick of a record whose countdown is not over. -/
theorem voiceAt_tick_of_pending {s : State} {i : Fin 32} (h : lifeState (voiceAt s.voices i) = .pending)
    (c : Config Num32) (sr : BitVec 32) :
    voiceAt (tick c sr s).voices i = { voiceAt s.voices i with sus := (voiceAt s.voices i).sus - 1 } := by
  rw [tick_voices, voicesAfter_get, voiceStep_of_pending h]

/-- Settles O30, by induction on the number of ticks: before each of them the record is still pending. -/
theorem countdownDelaysVoice : Obligations.CountdownDelaysVoice := by
  intro c sr n s i hactive hn
  induction n generalizing s with
  | zero => simp [ticks]
  | succ n ih =>
    have hsus : (voiceAt s.voices i).sus ≠ 0 := by bv_omega
    have htick := voiceAt_tick_of_pending (lifeState_eq_pending_iff.2 ⟨hactive, hsus⟩) c sr
    have hleft : (voiceAt s.voices i).sus - 1 - BitVec.ofNat 32 n = (voiceAt s.voices i).sus - BitVec.ofNat 32 (n + 1) := by
      rw [sub_sub, Nat.add_comm, BitVec.ofNat_add]
      rfl
    rw [ticks_succ, ih (tick c sr s) (by rw [htick]; exact hactive) (by rw [htick]; bv_omega), htick]
    simp only [hleft]

end Sys2Proof.Machine

/-! ### Zeros, NaN operands and equal keys -/

namespace Sys2Proof

theorem F32.isZero_iff {x : Num32} : F32.isZero x = true ↔ F32.key x = 0 := by
  have := F32.natAbs_key x
  rw [F32.isZero, beq_iff_eq]
  omega

theorem F32.isFinite_of_isZero {x : Num32} (h : F32.isZero x = true) : F32.isFinite x = true := by
  rw [F32.isFinite_iff, F32.isZero_iff.1 h]
  decide

theorem F32.units_of_isZero {x : Num32} (h : F32.isZero x = true) : F32.units x = 0 := by
  rw [F32.units_eq, F32.isZero_iff.1 h, Int.sign_zero, zero_mul]

/-- Only the zeros are two values with one key. -/
theorem F32.eq_of_key_eq_of_pos {x y : Num32} (h : F32.key x = F32.key y) (hy : 0 < F32.key y) : x = y := by
  have hx := F32.natAbs_key x
  have hy' := F32.natAbs_key y
  exact F32.ext ((F32.key_nonneg_msb (h ▸ hy)).trans (F32.key_nonneg_msb hy).symm) (by omega)

theorem F32.le_neg_neg {x y : Num32} (h : F32.le x y = true) : F32.le (F32.neg y) (F32.neg x) = true := by
  obtain ⟨hx, hy, hk⟩ := F32.le_iff.1 h
  rw [F32.le_iff, Machine.isNaN_neg, Machine.isNaN_neg, F32.key_neg, F32.key_neg]
  exact ⟨hy, hx, neg_le_neg hk⟩

theorem F32.isNaN_add_of_isNaN_left {x : Num32} (h : F32.isNaN x = true) (y : Num32) :
    F32.isNaN (F32.add x y) = true := by
  rw [F32.add, h, Bool.true_or, if_pos rfl]
  decide

theorem F32.isNaN_mul_of_isNaN_left {x : Num32} (h : F32.isNaN x = true) (y : Num32) :
    F32.isNaN (F32.mul x y) = true := by
  rw [F32.mul, h, Bool.true_or, if_pos rfl]
  decide

/-- A product with a zero is a zero or no number. -/
theorem F32.isZero_mul {x y : Num32} (hx : F32.isZero x = true) (h : F32.isNaN (F32.mul x y) = false) :
    F32.isZero (F32.mul x y) = true := by
  have fx := F32.isFinite_of_isZero hx
  cases hy : F32.isFinite y with
  | true =>
    rw [F32.isZero_iff, F32.key_mul fx hy, F32.units_of_isZero hx, zero_mul, F32.roundKey_zero]
  | false =>
    have hnan : F32.mul x y = F32.nan := by
      simp only [F32.isFinite_eq, Bool.and_eq_false_iff, Bool.not_eq_false'] at hy
      obtain hy | hy := hy <;> simp [F32.mul, hx, hy]
    rw [hnan] at h
    exact absurd h (by decide)

/-- A quotient by zero is never finite. -/
theorem F32.isFinite_div_zero (x : Num32) : F32.isFinite (F32.div x 0) = false := by
  have hi : F32.isInf 0 = false := by decide
  have hz : F32.isZero 0 = true := by decide
  simp only [F32.div, hi, hz, Bool.false_eq_true, if_false, if_true]
  split_ifs
  · exact F32.not_isFinite_nan
  · exact F32.isFinite_pack_infMag _
  · exact F32.not_isFinite_nan
  · exact F32.isFinite_pack_infMag _

theorem F32.div_zero_of_pos {x : Num32} (h : F32.lt 0 x = true) : F32.div x 0 = F32.pack false F32.infMag := by
  obtain ⟨hn, hk⟩ := F32.lt_zero_iff.1 h
  have hz : F32.isZero x = false := by
    rw [Bool.eq_false_iff, ne_eq, F32.isZero_iff]
    exact hk.ne'
  have h0 : F32.isNaN 0 = false ∧ F32.isInf 0 = false ∧ F32.isZero 0 = true ∧ (0 : Num32).msb = false := by decide
  obtain ⟨h0n, h0i, h0z, h0s⟩ := h0
  simp only [F32.div, hn, hz, h0n, h0i, h0z, h0s, F32.key_nonneg_msb hk, Bool.or_self, Bool.false_eq_true, if_false,
    if_true, bne_self_eq_false, ite_self]

/-- A value divided by itself is 1. -/
theorem F32.div_self {x : Num32} (fx : F32.isFinite x = true) (hx : F32.lt 0 x = true) :
    F32.div x x = Machine.one := by
  have hone : F32.key Machine.one = 0x3F800000 := by decide
  have hround : F32.roundMag (2 ^ 149) 1 = 0x3F800000 := by decide +kernel
  have hinf : F32.infMag = 0x7F800000 := rfl
  have hpos := F32.magUnits_pos hx
  have hscale := F32.roundMag_mul_right hpos (2 ^ 149) 1
  rw [Nat.one_mul, Nat.mul_comm, hround] at hscale
  have hcast : (F32.magUnits (F32.mag x) : Int) * 2 ^ 149 = ((F32.magUnits (F32.mag x) * 2 ^ 149 : Nat) : Int) := by
    push_cast; rfl
  refine F32.eq_of_key_eq_of_pos ?_ (by omega)
  rw [(F32.key_div fx hx).2, F32.isInf_of_finite fx, F32.units_of_nonneg (F32.lt_zero_iff.1 hx).2.le]
  simp only [Bool.false_eq_true, if_false]
  rw [hcast, F32.roundKey_natCast hpos, hscale]
  omega

/-- `min` with a fixed first operand keeps order. -/
theorem F32.min_mono_right {a x y : Num32} (ha : F32.isNaN a = false) (h : F32.le x y = true) :
    F32.le (F32.min a x) (F32.min a y) = true := by
  obtain ⟨hx, hy, -⟩ := F32.le_iff.1 h
  rcases F32.le_or_lt ha hy with hay | hya
  · rw [F32.min_of_le hay]
    rcases F32.le_or_lt ha hx with hax | hxa
    · rw [F32.min_of_le hax]; exact F32.le_refl ha
    · rw [F32.min_of_lt hxa]; exact F32.le_of_lt hxa
  · have hxa : F32.lt x a = true := by
      obtain ⟨-, -, hxy⟩ := F32.le_iff.1 h
      obtain ⟨-, -, hlt⟩ := F32.lt_iff.1 hya
      exact F32.lt_iff.2 ⟨hx, ha, by omega⟩
    rw [F32.min_of_lt hya, F32.min_of_lt hxa]
    exact h

/-- The smaller of 1 and a number up to 1 is that number: the tie is at 1 itself. -/
theorem F32.min_one_of_le {x : Num32} (h : F32.le x Machine.one = true) : F32.min Machine.one x = x := by
  have hone : F32.key Machine.one = 0x3F800000 := by decide
  obtain ⟨hx, hn, hk⟩ := F32.le_iff.1 h
  rcases hk.lt_or_eq with hlt | heq
  · exact F32.min_of_lt (F32.lt_iff.2 ⟨hx, hn, hlt⟩)
  · rw [F32.eq_of_key_eq_of_pos heq (by omega)]
    exact F32.min_of_le (F32.le_refl hn)

end Sys2Proof

namespace Sys2Proof.Machine

section
variable {c : Config Num32} (hc : c.num = F32.format) {x y a : Num32}
include hc

theorem le_flush (h : F32.le x y = true) : F32.le (c.flush x) (c.flush y) = true := by
  obtain ⟨hx, hy, hk⟩ := F32.le_iff.1 h
  rw [F32.le_iff, isNaN_flush hc, isNaN_flush hc]
  exact ⟨hx, hy, key_flush_mono hc hk⟩

theorem isZero_flush (h : F32.isZero x = true) : F32.isZero (c.flush x) = true := by
  have hk := F32.isZero_iff.1 h
  rw [F32.isZero_iff, key_flush_of_normal hc (.inr hk), hk]

theorem isNaN_add_of_isNaN_left (h : F32.isNaN x = true) (y : Num32) : F32.isNaN (c.add x y) = true := by
  rw [add_eq hc, isNaN_flush hc]
  exact F32.isNaN_add_of_isNaN_left h y

theorem isNaN_mul_of_isNaN_left (h : F32.isNaN x = true) (y : Num32) : F32.isNaN (c.mul x y) = true := by
  rw [mul_eq hc, isNaN_flush hc]
  exact F32.isNaN_mul_of_isNaN_left h y

theorem isZero_mul (hx : F32.isZero x = true) (h : F32.isNaN (c.mul x y) = false) :
    F32.isZero (c.mul x y) = true := by
  rw [mul_eq hc, isNaN_flush hc] at h
  rw [mul_eq hc]
  exact isZero_flush hc (F32.isZero_mul hx h)

theorem isZero_div (hx : F32.isZero x = true) (hy : F32.lt 0 y = true) : F32.isZero (c.div x y) = true := by
  rw [div_eq hc]
  refine isZero_flush hc (F32.isZero_iff.2 ?_)
  rw [(F32.key_div (F32.isFinite_of_isZero hx) hy).2, F32.units_of_isZero hx, zero_mul, F32.roundKey_zero, ite_self]

/-- A quotient rises with a dividend that is not negative, whatever the positive divisor, an infinity included. -/
theorem le_div_dividend (fa : F32.isFinite a = true) (hx : F32.le 0 x = true) (hxa : F32.le x a = true)
    (hy : F32.lt 0 y = true) : F32.le 0 (c.div x y) = true ∧ F32.le (c.div x y) (c.div a y) = true := by
  obtain ⟨hn, hk⟩ := F32.key_div (F32.isFinite_of_nonneg_of_le fa hx hxa) hy
  obtain ⟨hn', hk'⟩ := F32.key_div fa hy
  have hpos := F32.magUnits_pos hy
  have hux : 0 ≤ F32.units x := by rw [F32.units_of_nonneg (F32.le_zero_iff.1 hx).2]; positivity
  have hua := F32.units_mono (F32.le_iff.1 hxa).2.2
  rw [div_eq hc, div_eq hc]
  constructor
  · refine le_zero_flush hc (F32.le_zero_iff.2 ⟨hn, ?_⟩)
    rw [hk]
    split
    · exact le_rfl
    · exact F32.roundKey_nonneg hpos (by positivity)
  · refine le_flush hc (F32.le_iff.2 ⟨hn, hn', ?_⟩)
    rw [hk, hk']
    split
    · exact le_rfl
    · exact F32.roundKey_mono hpos (by omega)

theorem div_self_eq_one (hx : IsPositive x) : c.div x x = one := by
  rw [div_eq hc, F32.div_self hx.1 hx.2, flush_eq_self hc (.inl (by decide))]

theorem isFinite_div_zero (x : Num32) : F32.isFinite (c.div x 0) = false := by
  refine Bool.eq_false_iff.2 fun h => ?_
  rw [div_eq hc] at h
  exact Bool.eq_false_iff.1 (F32.isFinite_div_zero x) (isFinite_of_flush hc h)

theorem lt_zero_ofNat {n : Nat} (h : 0 < n) : F32.lt 0 (c.ofNat n) = true := by
  have hone : c.ofNat 1 = one := by
    rw [ofNat_eq hc, show F32.ofNat 1 = one by decide +kernel, flush_eq_self hc (.inl (by decide))]
  exact F32.lt_of_lt_of_le (by decide) (hone ▸ ofNat_mono hc h)

end

/-! ### Expiry and age (41_voice_synthesis.md R140, R143) -/

section
variable {c : Config Num32} (hc : c.num = F32.format) {sr : BitVec 32} {v w : Voice Num32}
include hc

/-- Age in seconds rises with age in samples. Over a rate of 0, which `PREPARE` never stores, every age but 0 is an infinity
and age 0 is no number. -/
theorem le_elapsed (h : v.sidx ≤ w.sidx) (hn : F32.isNaN (elapsed c sr v) = false) :
    F32.le (elapsed c sr v) (elapsed c sr w) = true := by
  have hage : v.sidx.toNat ≤ w.sidx.toNat := h
  rcases Nat.eq_zero_or_pos sr.toNat with hsr | hsr
  · rcases Nat.eq_zero_or_pos v.sidx.toNat with hv | hv
    · have hnan : F32.isNaN (F32.div 0 0) = true := by decide
      rw [elapsed, hv, hsr, ofNat_zero hc, div_eq hc, isNaN_flush hc, hnan] at hn
      cases hn
    · have hinf : ∀ {n : Nat}, 0 < n → c.div (c.ofNat n) 0 = c.flush (F32.pack false F32.infMag) := fun hpos => by
        rw [div_eq hc, F32.div_zero_of_pos (lt_zero_ofNat hc hpos)]
      have heq : elapsed c sr v = elapsed c sr w := by
        rw [elapsed, elapsed, hsr, ofNat_zero hc, hinf hv, hinf (hv.trans_le hage)]
      exact heq ▸ F32.le_refl hn
  · exact (le_div_dividend hc (isFinite_ofNat_word hc w.sidx) (le_zero_ofNat hc _) (ofNat_mono hc hage)
      (lt_zero_ofNat hc hsr)).2

theorem expired_iff {snap : Bank Num32} {k : DrumType} :
    expired c snap sr k v = true ↔ F32.lt (voiceLife c snap k) (elapsed c sr v) = true := by
  rw [expired, hc]; rfl

end

/-- Settles O31: the lifetime does not depend on the age, and the age in seconds rises with it. -/
theorem expiryIsMonotoneInAge : Obligations.ExpiryIsMonotoneInAge := by
  intro c snap sr k v w hc hage hv
  rw [expired_iff hc] at hv ⊢
  exact F32.lt_of_lt_of_le hv (le_elapsed hc hage (F32.lt_iff.1 hv).2.1)

/-- With every parameter at its default the lifetime of a type is its termination coefficient (R142, R143). -/
theorem voiceLife_defaultBank (k : DrumType) : voiceLife cfg (defaultBank cfg) k = thr cfg k := by
  cases k <;> decide +kernel

/-- Settles O32: the lifetimes are the termination coefficients, and each age of the table is compared with its own. -/
theorem defaultLifetimes : Obligations.DefaultLifetimes := by
  simp only [Obligations.DefaultLifetimes, expired, voiceLife_defaultBank]
  decide +kernel

/-! ### The noise generator (41_voice_synthesis.md R147, R148) -/

/-- Settles O33: none of the three shifts loses a bit, and a scaled noise state lies in [0, 2]. -/
theorem noiseStaysNonZeroAndBounded : Obligations.NoiseStaysNonZeroAndBounded := by
  refine ⟨fun x => ⟨not_imp_not.1 xorshift32_ne_zero, fun h => ?_⟩, fun c n hc => unitMagnitude_noiseSample hc n⟩
  rw [h]
  rfl

/-! ### The advance of an oscillator (41_voice_synthesis.md R146) -/

theorem osc_ph_same {N : Type} (c : Config N) (sr : BitVec 32) (j : Fin 3) (f : N) (v : Voice N) :
    (osc c sr j f v).2.ph[j] = advance c sr f v.ph[j] := by
  rw [osc_ph, if_pos rfl]

section
variable {c : Config Num32} (hc : c.num = F32.format) {sr : BitVec 32} {f p : Num32}
include hc

/-- A finite quotient of a frequency that is not negative and a rate is not negative; the rate is not 0 then. -/
theorem le_zero_phaseStep (hf : F32.le 0 f = true) (hq : F32.isFinite (c.div f (c.ofNat sr.toNat)) = true) :
    F32.le 0 (c.div f (c.ofNat sr.toNat)) = true := by
  rcases Nat.eq_zero_or_pos sr.toNat with hsr | hsr
  · rw [hsr, ofNat_zero hc, isFinite_div_zero hc] at hq
    cases hq
  · exact (nonNegOrNaN_div hc (.inr hf) (lt_zero_ofNat hc hsr) (isFinite_ofNat_word hc sr)).resolve_left
      (by simp [F32.isNaN_of_finite hq])

/-- A phase or an increment that is not finite leaves no number. -/
theorem isNaN_advance_of_not_finite
    (h : F32.isFinite p = false ∨ F32.isFinite (c.div f (c.ofNat sr.toNat)) = false) :
    F32.isNaN (advance c sr f p) = true := by
  refine isNaN_frac_of_not_finite hc (Bool.eq_false_iff.2 fun hsum => ?_)
  obtain ⟨fp, fq⟩ := isFinite_of_add hc hsum
  obtain h | h := h
  · rw [fp] at h; cases h
  · rw [fq] at h; cases h

end

/-- Settles O35: a finite increment keeps the phase in its cycle; anything else that enters the sum makes it no number. -/
theorem oscillatorKeepsPhaseInCycle : Obligations.OscillatorKeepsPhaseInCycle := by
  intro c sr j f v hc hf
  simp only [osc_ph_same]
  refine ⟨fun hp hq => isPhase_advance hc hp (le_zero_phaseStep hc hf hq) hq,
    fun _ hq => isNaN_advance_of_not_finite hc (.inr hq), fun hp => isNaN_advance_of_not_finite hc (.inl ?_)⟩
  rw [F32.isFinite_eq, hp]
  rfl

/-! ### The exponential envelope and the attack ramp (41_voice_synthesis.md R149, R150) -/

section
variable {c : Config Num32} (hw : ConfigWf c) {t t' tau : Num32}
include hw

theorem lt_zero_max_epsTau (htau : F32.isNaN tau = false) : F32.lt 0 (F32.max c.epsTau tau) = true := by
  obtain ⟨-, -, fe, he⟩ := hw.floors
  exact F32.lt_of_lt_of_le he (F32.le_max_left (F32.isNaN_of_finite fe) htau)

/-- The envelope is in [0, 1] wherever the quotient of its exponent is finite and not negative. -/
theorem inUnit_dec_of_quotient (hq : F32.isFinite (c.div t (F32.max c.epsTau tau)) = true)
    (h0 : F32.le 0 (c.div t (F32.max c.epsTau tau)) = true) : F32.inUnit (dec c t tau) = true := by
  rw [dec_eq hw]
  exact hw.exp_range _ (F32.isFinite_neg hq) (F32.le_trans (F32.le_neg_neg h0) (by decide))

/-- Where `NUM.exp` falls, the envelope falls with the quotient of its exponent. -/
theorem le_dec_of_quotient (hexp : ExpFalls c) (hq : F32.isFinite (c.div t' (F32.max c.epsTau tau)) = true)
    (h0 : F32.le 0 (c.div t (F32.max c.epsTau tau)) = true)
    (h : F32.le (c.div t (F32.max c.epsTau tau)) (c.div t' (F32.max c.epsTau tau)) = true) :
    F32.le (dec c t' tau) (dec c t tau) = true := by
  rw [dec_eq hw, dec_eq hw]
  exact hexp.falls _ _ (F32.isFinite_neg hq) (F32.le_neg_neg h) (F32.le_trans (F32.le_neg_neg h0) (by decide))

theorem dec_of_isZero (hexp : ExpFalls c) (htau : F32.isNaN tau = false) (ht : F32.isZero t = true) :
    dec c t tau = one := by
  have hq := isZero_div hw.binary32 ht (lt_zero_max_epsTau hw htau)
  rw [dec_eq hw]
  refine hexp.at_zero _ (F32.isZero_iff.2 ?_)
  rw [F32.key_neg, F32.isZero_iff.1 hq, neg_zero]

end

/-- Settles O36: the quotient of the exponent rises with the time, and `NUM.exp` falls with it. -/
theorem exponentialEnvelopeFalls : Obligations.ExponentialEnvelopeFalls := by
  intro c t t' tau hw htau h0 hle fq'
  have ft' := isFinite_of_div hw.binary32 fq'
  obtain ⟨hq0, hq⟩ := le_div_dividend hw.binary32 ft' h0 hle (lt_zero_max_epsTau hw htau)
  have fq := F32.isFinite_of_nonneg_of_le fq' hq0 hq
  exact ⟨inUnit_dec_of_quotient hw fq hq0, inUnit_dec_of_quotient hw fq' (F32.le_trans hq0 hq),
    fun hexp => ⟨le_dec_of_quotient hw hexp fq' hq0 hq, dec_of_isZero hw hexp htau⟩⟩

section
variable {c : Config Num32} (hc : c.num = F32.format) {t ramp : Num32}
include hc

theorem att_eq (t ramp : Num32) : att c t ramp = F32.min one (c.div t ramp) := by
  rw [att, one_eq hc, hc]
  rfl

theorem att_of_le (h0 : F32.le 0 t = true) (hramp : IsPositive ramp)
    (h : F32.le t ramp = true) : att c t ramp = c.div t ramp := by
  have hq := (le_div_dividend hc hramp.1 h0 h hramp.2).2
  rw [div_self_eq_one hc hramp] at hq
  rw [att_eq hc, F32.min_one_of_le hq]

theorem att_of_ge (ft : F32.isFinite t = true) (hramp : IsPositive ramp) (h : F32.le ramp t = true) :
    att c t ramp = one := by
  have hq := (le_div_dividend hc ft (F32.le_of_lt hramp.2) h hramp.2).2
  rw [div_self_eq_one hc hramp] at hq
  rw [att_eq hc, F32.min_of_le hq]

theorem isZero_att (hramp : IsPositive ramp) (ht : F32.isZero t = true) : F32.isZero (att c t ramp) = true := by
  have hq := isZero_div hc ht hramp.2
  have hle : F32.le (c.div t ramp) one = true :=
    F32.le_iff.2 ⟨F32.isNaN_of_finite (F32.isFinite_of_isZero hq), by decide, by rw [F32.isZero_iff.1 hq]; decide⟩
  rw [att_eq hc, F32.min_one_of_le hle]
  exact hq

end

/-- Settles O37: the quotient of time and ramp length rises with the time and is 1 where they are equal. -/
theorem attackRampRises : Obligations.AttackRampRises := by
  intro c t t' ramp hc hramp ft' h0 hle
  have ft := F32.isFinite_of_nonneg_of_le ft' h0 hle
  obtain ⟨hq0, hq⟩ := le_div_dividend hc ft' h0 hle hramp.2
  refine ⟨?_, ?_, isZero_att hc hramp, fun hlt => att_of_le hc h0 hramp (F32.le_of_lt hlt),
    att_of_ge hc ft hramp⟩
  · rw [att_eq hc]
    exact F32.inUnit_min_one hq0
  · rw [att_eq hc, att_eq hc]
    exact F32.min_mono_right (by decide) hq

/-! ### The tune multiplier (41_voice_synthesis.md R141) -/

theorem absLe_of_isFinite {x : Num32} (h : F32.isFinite x = true) : AbsLe x 0x7F7FFFFF := by
  have hmax : F32.key 0x7F7FFFFF = 0x7F7FFFFF := by decide
  have hinf : F32.infMag = 0x7F800000 := rfl
  have hk := F32.isFinite_iff.1 h
  exact absLe_iff.2 ⟨F32.isNaN_of_finite h, by decide, by omega⟩

/-- Sums of the tune registers that are whole octaves, in semitones; the octaves; the multipliers. -/
def wholeOctaves : List (Num32 × Num32 × Num32) :=
  [(F32.lit 12 1, F32.lit 1 1, F32.lit 2 1), (F32.litNeg 12 1, F32.litNeg 1 1, F32.lit 1 2),
    (F32.lit 24 1, F32.lit 2 1, F32.lit 4 1), (F32.litNeg 24 1, F32.litNeg 2 1, F32.lit 1 4)]

theorem lit_twelve : F32.lit 12 1 = 0x41400000 := by decide +kernel

theorem div_twelve_wholeOctaves : ∀ row ∈ wholeOctaves,
    F32.div row.1 (F32.lit 12 1) = row.2.1 ∧ 2 ^ 23 ≤ F32.mag row.2.1 := by
  simp only [wholeOctaves, List.forall_mem_cons, List.not_mem_nil, false_imp_iff, implies_true, and_true]
  decide +kernel

theorem Exp2Exact.wholeOctaves {c : Config Num32} (h : Exp2Exact c) :
    ∀ row ∈ Machine.wholeOctaves, c.exp2 row.2.1 = row.2.2 := by
  have hone : F32.lit 1 1 = one := by decide +kernel
  simp only [Machine.wholeOctaves, List.forall_mem_cons, hone, List.not_mem_nil, false_imp_iff, implies_true, and_true]
  exact ⟨h.at_one, h.at_minus_one, h.at_two, h.at_minus_two⟩

section
variable {c : Config Num32} (hc : c.num = F32.format) {sum : Num32}
include hc

theorem isFinite_div_twelve (h : F32.isFinite sum = true) : F32.isFinite (c.div sum (c.lit 12 1)) = true := by
  rw [lit_eq hc, lit_twelve]
  exact (absLe_div_of hc (d := 0x7F7FFFFF) (by decide) (by decide) (by decide) (absLe_of_isFinite h)
    (by decide +kernel)).isFinite (by decide)

/-- A twelfth of a zero is that zero, with its sign. -/
theorem div_twelve_of_isZero (h : F32.isZero sum = true) : c.div sum (c.lit 12 1) = sum := by
  have hmag : F32.mag sum = 0 := by simpa [F32.isZero] using h
  have hzeros : ∀ neg, F32.div (F32.pack neg 0) 0x41400000 = F32.pack neg 0 := by decide +kernel
  have hdiv := hzeros sum.msb
  rw [← hmag, F32.pack_mag] at hdiv
  rw [lit_eq hc, lit_twelve, div_eq hc, hdiv, flush_eq_self hc (.inr hmag)]

end

/-- Settles O38: a twelfth of a finite sum is finite, and exact at 0 and at whole octaves. -/
theorem tuneMultiplierAtWholeOctaves : Obligations.TuneMultiplierAtWholeOctaves := by
  intro c snap k hw sum
  have hc := hw.binary32
  have hmul : tuneMulOf c snap k = c.exp2 (c.div sum (c.lit 12 1)) := rfl
  rw [hmul]
  refine ⟨fun fsum => hw.exp2_pos _ (isFinite_div_twelve hc fsum), fun hzero => ?_, fun hexact hzero => ?_,
    fun row hrow hsum => ?_⟩
  · rw [div_twelve_of_isZero hc hzero]
  · rw [div_twelve_of_isZero hc hzero]
    exact hexact.at_zero _ hzero
  · obtain ⟨hdiv, hnormal⟩ := div_twelve_wholeOctaves row hrow
    rw [hsum, lit_eq hc, div_eq hc, hdiv, flush_eq_self hc (.inl hnormal)]
    exact ⟨rfl, fun hexact => hexact.wholeOctaves row hrow⟩

/-! ### Raw samples (42_drum_generators.md R171 to R180) -/

/-- Settles O40: `RAWMAX` bounds every raw sample, and the crash and the ride are scaled by an attack ramp that is zero at
time 0. -/
theorem generatorSamplesBounded : Obligations.GeneratorSamplesBounded := by
  intro c sr k t tuneMul decay hl v hw hfin h0 hq hdecay hhl hp
  have hbound := absLe_gen (sr := sr) (tuneMul := tuneMul) hw ⟨h0, hq⟩ hp hdecay hhl k hfin
  have hnum := (absLe_iff.1 hbound).1
  refine ⟨hbound, fun hk ht => ?_⟩
  have hatt : ∀ {ramp}, IsPositive ramp → F32.isZero (att c t ramp) = true := fun hramp =>
    isZero_att hw.binary32 hramp ht
  obtain rfl | rfl := hk
  · exact isZero_mul hw.binary32 (hatt (hw.rom.positives c.rom.crAtt (by simp))) hnum
  · exact isZero_mul hw.binary32 (hatt (hw.rom.positives c.rom.rdAtt (by simp))) hnum

/-! ### What a drive stage and a voice return (41_voice_synthesis.md R154, R156, 43_master_bus.md R195) -/

section
variable {c : Config Num32} (hw : ConfigWf c) {snap : Bank Num32} {k : DrumType} {x : Num32}
include hw

theorem sampleOk_softClip (x : Num32) : SampleOk (softClip c x) := by
  cases hx : F32.isNaN x with
  | true => exact .inl (hw.tanh_nan x hx)
  | false => exact .inr (hw.tanh_bound x hx)

theorem isNaN_driveStage (hx : F32.isNaN x = true) (dg : Num32) : F32.isNaN (driveStage c dg x) = true :=
  isNaN_mul_of_isNaN_left hw.binary32 (hw.tanh_nan x hx) _

/-- No stage of the post chain removes a NaN (R156). -/
theorem isNaN_post (hx : F32.isNaN x = true) (v : Voice Num32) : F32.isNaN (post c snap k x v).1 = true := by
  have hc := hw.binary32
  have htone : F32.isNaN (toneBlend c snap k x (toneState c snap k x v.tlp)) = true := isNaN_add_of_isNaN_left hc hx _
  have hdrive : F32.isNaN (voiceDrive c snap k (toneBlend c snap k x (toneState c snap k x v.tlp))) = true :=
    isNaN_driveStage hw (isNaN_mul_of_isNaN_left hc htone _) _
  exact hw.tanh_nan _ (isNaN_mul_of_isNaN_left hc (isNaN_mul_of_isNaN_left hc hdrive _) _)

end

/-- Settles O48: `tanh` is bounded and keeps a NaN, and the factor `1 / sqrt(dg)` is in [0, 1]. -/
theorem driveStageBounded : Obligations.DriveStageBounded := fun _ dg _ hw hdg =>
  ⟨unitMagnitude_driveStage hw hdg, fun hx => isNaN_driveStage hw hx dg⟩

/-- Settles O41: a retiring voice gives 0, and a sounding one what its post chain makes of its raw sample. -/
theorem voiceSampleBounded : Obligations.VoiceSampleBounded := by
  intro c snap sr k v hw raw r
  cases he : expired c snap sr k v with
  | true =>
    have hr : r = ⟨0, false, v⟩ := by rw [← zero_eq hw.binary32]; exact drumAlg_of_expired he
    have hzero : UnitMagnitude 0 := by decide
    rw [hr]
    exact ⟨.inr hzero, fun _ _ _ htlp => ⟨hzero, htlp⟩, fun h => absurd h (by simp)⟩
  | false =>
    have hr : r = ⟨(sound c snap sr k v).1, true, (sound c snap sr k v).2⟩ := drumAlg_of_not_expired he
    rw [hr]
    refine ⟨sampleOk_softClip hw _, fun hb hvel hraw htlp => ?_, fun _ hnan => isNaN_post hw hnan _⟩
    rw [sound, gen_frame]
    exact post_bounded hw hb k hvel hraw htlp

end Sys2Proof.Machine

/-! ### The oscillators that a generator advances (42_drum_generators.md R171 to R179, reference datapaths: log 27) -/

namespace Sys2Proof.Machine

section
variable {N : Type} (c : Config N) (sr : BitVec 32) (t tuneMul decay hl : N) (v : Voice N)

/-- A generator whose frequencies are the entries of `freqs` advances the phases that have one, and no other. -/
theorem gen_ph_of_freqs {k : DrumType} {freqs : Vector (Option N) 3}
    (hfreqs : ∀ j : Fin 3, (genFreqs c k t tuneMul)[j.val]? = freqs[j]) (j : Fin 3) :
    (gen c sr k t tuneMul decay hl v).2.ph[j] =
      match freqs[j] with
      | some f => c.frac (c.add v.ph[j] (c.div f (c.ofNat sr.toNat)))
      | none => v.ph[j] := by
  rw [gen_ph, hfreqs j]
  cases freqs[j] <;> rfl

end

/-- Settles O34: each row lists the frequencies that the generator of its type gives its oscillators. -/
theorem generatorsAdvanceNamedOscillators : Obligations.GeneratorsAdvanceNamedOscillators := by
  intro N c sr t tuneMul decay hl v r kick snare row hrow
  have hfreqs : ∀ j : Fin 3, (genFreqs c row.1 t tuneMul)[j.val]? = row.2[j] := by
    intro j
    simp only [List.mem_cons, List.not_mem_nil, or_false] at hrow
    rcases hrow with rfl | rfl | rfl | rfl | rfl | rfl | rfl | rfl <;> fin_cases j <;> rfl
  exact ⟨gen_frame c sr row.1 t tuneMul decay hl v, gen_ph_of_freqs c sr t tuneMul decay hl v hfreqs⟩

end Sys2Proof.Machine

/-! ### The clap envelope (42_drum_generators.md R177) -/

namespace Sys2Proof

theorem F32.le_eq_false_of_lt {x y : Num32} (h : F32.lt x y = true) : F32.le y x = false := by
  obtain ⟨-, -, hk⟩ := F32.lt_iff.1 h
  rw [Bool.eq_false_iff, ne_eq, F32.le_iff]
  omega

end Sys2Proof

namespace Sys2Proof.Machine

section
variable {c : Config Num32} (hc : c.num = F32.format) {t decay onset x x' k e : Num32}
include hc

theorem addBurst_of_begun (h : F32.le (c.mul onset decay) t = true) :
    addBurst c t decay onset e = c.add e (dec c (c.sub t (c.mul onset decay)) c.rom.clBurstTau) := by
  rw [addBurst, hc]
  exact if_pos h

theorem addBurst_of_pending (h : F32.lt t (c.mul onset decay) = true) : addBurst c t decay onset e = e := by
  rw [addBurst, hc]
  exact if_neg (by simp [F32.format, F32.le_eq_false_of_lt h])

theorem le_mul_fixed_right (fk : F32.isFinite k = true) (fx : F32.isFinite x = true) (fx' : F32.isFinite x' = true)
    (hk : F32.le 0 k = true) (hx : F32.le x x' = true) : F32.le (c.mul x k) (c.mul x' k) = true := by
  rw [mul_eq hc x, mul_eq hc x', F32.mul_comm x, F32.mul_comm x', ← mul_eq hc, ← mul_eq hc]
  exact le_mul hc fk fx fx' hk hx

/-- The first burst begins with the voice: its onset is a zero. -/
theorem zero_onset_le (fd : F32.isFinite decay = true) (ht : F32.le 0 t = true) : F32.le (c.mul 0 decay) t = true := by
  have hnum := isNaN_mul hc (x := 0) (by decide) fd
  have hzero := F32.isZero_iff.1 (isZero_mul hc (x := 0) (by decide) hnum)
  obtain ⟨htn, htk⟩ := F32.le_zero_iff.1 ht
  exact F32.le_iff.2 ⟨hnum, htn, by omega⟩

end

/-- The limited sum of three bursts, with the onsets of R177 written in. -/
theorem clapEnvelope_eq {c : Config Num32} (hw : ConfigWf c) (t decay : Num32) :
    clapEnvelope c t decay = F32.min one (addBurst c t decay (F32.lit 22 1000)
      (addBurst c t decay (F32.lit 12 1000) (addBurst c t decay 0 0))) := by
  obtain ⟨h0, h1, h2, hlimit⟩ := hw.rom.exact_bursts
  rw [clapEnvelope, h0, h1, h2, hlimit, zero_eq hw.binary32, hw.binary32]
  rfl

/-- Settles O39: the onsets come in the order of their products with the decay, so what has begun is a first part of the
three bursts. -/
theorem clapEnvelopeLimited : Obligations.ClapEnvelopeLimited := by
  intro c t decay hw h0 hq hdecay burst first on1 on2
  have hc := hw.binary32
  have hd0 := F32.le_of_lt hdecay.2
  have horder : F32.le on1 on2 = true :=
    le_mul_fixed_right hc hdecay.1 (by decide +kernel) (by decide +kernel) hd0 (by decide +kernel)
  have hfirst : addBurst c t decay 0 0 = first := addBurst_of_begun hc (zero_onset_le hc hdecay.1 h0)
  refine ⟨inUnit_clapEnvelope hw ⟨h0, hq⟩ hd0, fun hlt => ?_, fun hle hlt => ?_, fun hle => ?_⟩
  · rw [clapEnvelope_eq hw, hfirst, addBurst_of_pending hc hlt, addBurst_of_pending hc (F32.lt_of_lt_of_le hlt horder)]
    rfl
  · rw [clapEnvelope_eq hw, hfirst, addBurst_of_begun hc hle, addBurst_of_pending hc hlt]
    rfl
  · rw [clapEnvelope_eq hw, hfirst, addBurst_of_begun hc (F32.le_trans horder hle), addBurst_of_begun hc hle]
    rfl

end Sys2Proof.Machine

/-! ### The frames of a render (43_master_bus.md R190, R202) -/

namespace Sys2Proof.Machine

section
variable {N : Type} (c : Config N) (mb : MasterBus N)

theorem length_frameOf : (frameOf c mb).length = c.nch := by simp [frameOf]

theorem getElem?_frameOf {ch : Nat} (h : ch < c.nch) :
    (frameOf c mb)[ch]? = some (if ch = 0 then mb.lpL else if ch = 1 then mb.lpR else c.zero) := by
  simp [frameOf, h]

theorem mem_frameOf {x : N} (h : x ∈ frameOf c mb) : x = mb.lpL ∨ x = mb.lpR ∨ x = c.zero := by
  simp only [frameOf, List.mem_map] at h
  obtain ⟨ch, -, rfl⟩ := h
  split_ifs <;> simp

theorem frameOf_clearedBus : frameOf c (clearedBus c) = List.replicate c.nch c.zero := by
  refine List.eq_replicate_iff.2 ⟨length_frameOf c _, fun x hx => ?_⟩
  obtain h | h | h := mem_frameOf c _ hx <;> exact h

end

/-- Settles O51: the frame is made from the registers after the tick. -/
theorem tickAppendsFrameOfBus : Obligations.TickAppendsFrameOfBus := by
  intro c sr s
  rw [tick_mb]
  exact ⟨_, tick_frames c sr s, length_frameOf c _, fun ch h => getElem?_frameOf c _ h⟩

/-- `n` ticks append `n` frames of one sample per channel. -/
theorem ticks_frames (c : Config Num32) (sr : BitVec 32) (n : Nat) (s : State) :
    ∃ fs, (ticks c sr n s).frames = s.frames ++ fs ∧ fs.length = n ∧ ∀ f ∈ fs, f.length = c.nch := by
  induction n generalizing s with
  | zero => exact ⟨[], by simp [ticks], rfl, by simp⟩
  | succ n ih =>
    obtain ⟨fs, hfs, hlen, hwidth⟩ := ih (tick c sr s)
    refine ⟨frameOf c (busAfter c s.snap sr s.voices s.mb) :: fs, ?_, by rw [List.length_cons, hlen],
      List.forall_mem_cons.2 ⟨length_frameOf c _, hwidth⟩⟩
    rw [ticks_succ, hfs, tick_frames, List.append_assoc, List.singleton_append]

/-- Settles O42: a render on AUD is its ticks, which touch the voices, the bus and the frames only. -/
theorem renderAppendsFrames : Obligations.RenderAppendsFrames := by
  intro s n sr hport hsr
  obtain ⟨fs, hfs, hlen, hwidth⟩ := ticks_frames cfg sr n.toNat s
  have hexec : exec (.render n) s = .next (ticks cfg sr n.toNat s) := by
    rw [exec_render_of_aud hport, renderState_of_sr hsr]
  refine ⟨(ticks cfg sr n.toNat s).voices, (ticks cfg sr n.toNat s).mb, fs, ?_, hexec, hlen, hwidth⟩
  rw [hexec, ← hfs, ← ticks_frame]

/-! ### The silence reset (43_master_bus.md R199) -/

section
variable {N : Type} {c : Config N} {snap : Bank N} {sr : BitVec 32}

/-- A visit contributes a sample exactly when its record is sounding (R120 to R122). -/
theorem isSome_voiceStep_out {v : Voice N} : (voiceStep c snap sr v).out.isSome = true ↔ lifeState v = .sounding := by
  cases h : lifeState v with
  | free => simp [voiceStep_of_free h]
  | pending => simp [voiceStep_of_pending h]
  | sounding => simp [voiceStep_of_sounding h]

/-- What is contributed in a tick comes from the visit of some slot. -/
theorem mem_poolOuts {vs : Vector (Voice N) 32} {o : Option N} :
    o ∈ poolOuts c snap sr vs ↔ ∃ i : Fin 32, (voiceStep c snap sr (voiceAt vs i)).out = o := by
  rw [poolOuts, List.mem_map]
  constructor
  · rintro ⟨v, hv, rfl⟩
    obtain ⟨i, hi, rfl⟩ := List.getElem_of_mem hv
    exact ⟨⟨i, by simpa using hi⟩, rfl⟩
  · rintro ⟨i, rfl⟩
    exact ⟨voiceAt vs i, by simp [voiceAt], rfl⟩

theorem anyInvoked_poolOuts_iff {vs : Vector (Voice N) 32} :
    anyInvoked (poolOuts c snap sr vs) = true ↔ ∃ i : Fin 32, lifeState (voiceAt vs i) = .sounding := by
  simp only [anyInvoked, List.any_eq_true, mem_poolOuts, exists_exists_eq_and, isSome_voiceStep_out]

theorem masterStep_of_nearSilent {mono : N} {any : Bool} {mb : MasterBus N}
    (h : nearSilent c any (mixedSample c snap mb mono) = true) : masterStep c snap mono any mb = clearedBus c := if_pos h

theorem masterStep_of_not_nearSilent {mono : N} {any : Bool} {mb : MasterBus N}
    (h : nearSilent c any (mixedSample c snap mb mono) = false) :
    masterStep c snap mono any mb = busFiltered c snap mono mb := if_neg (by simp [h])

end

/-- Settles O50: `any` is set exactly when a record is sounding, so the two cases are those of the reset's condition. -/
theorem silenceResetFiresExactly : Obligations.SilenceResetFiresExactly := by
  intro c sr s mono quiet
  constructor
  · intro hnone hquiet
    have hany : anyInvoked (poolOuts c s.snap sr s.voices) = false := by
      rw [Bool.eq_false_iff, ne_eq, anyInvoked_poolOuts_iff]
      exact fun ⟨i, hi⟩ => hnone i hi
    have hbus : busAfter c s.snap sr s.voices s.mb = clearedBus c :=
      masterStep_of_nearSilent (by rw [nearSilent, hany]; exact hquiet)
    rw [tick_mb, tick_frames, hbus, frameOf_clearedBus]
    exact ⟨rfl, rfl⟩
  · intro h
    rw [tick_mb]
    refine masterStep_of_not_nearSilent ?_
    obtain hsounding | hloud := h
    · rw [nearSilent, anyInvoked_poolOuts_iff.2 hsounding]
      rfl
    · rw [nearSilent, Bool.and_eq_false_iff]
      exact .inr hloud

end Sys2Proof.Machine

/-! ### A NaN in either operand (00_scope.md R8) -/

namespace Sys2Proof

theorem F32.isNaN_add_of_isNaN_right {y : Num32} (h : F32.isNaN y = true) (x : Num32) :
    F32.isNaN (F32.add x y) = true := by
  rw [F32.add, h, Bool.or_true, if_pos rfl]
  decide

end Sys2Proof

namespace Sys2Proof.Machine

section
variable {c : Config Num32} (hc : c.num = F32.format) {k x y s : Num32}
include hc

theorem isNaN_add_of_isNaN_right (h : F32.isNaN y = true) (x : Num32) : F32.isNaN (c.add x y) = true := by
  rw [add_eq hc, isNaN_flush hc]
  exact F32.isNaN_add_of_isNaN_right h x

theorem isNaN_mul_of_isNaN_right (h : F32.isNaN y = true) (x : Num32) : F32.isNaN (c.mul x y) = true := by
  rw [mul_eq hc, F32.mul_comm, ← mul_eq hc]
  exact isNaN_mul_of_isNaN_left hc h x

theorem isNaN_sub_of_isNaN_left (h : F32.isNaN x = true) (y : Num32) : F32.isNaN (c.sub x y) = true := by
  rw [sub_eq_add_neg hc]
  exact isNaN_add_of_isNaN_left hc h _

/-! ### Samples that are bounded or no numbers (43_master_bus.md R195, R198, R203) -/

theorem isNaN_onePole_of_input (hx : F32.isNaN x = true) : F32.isNaN (onePole c k x s) = true :=
  isNaN_add_of_isNaN_right hc (isNaN_mul_of_isNaN_right hc (isNaN_sub_of_isNaN_left hc hx s) k) s

theorem isNaN_onePole_of_state (hs : F32.isNaN s = true) : F32.isNaN (onePole c k x s) = true :=
  isNaN_add_of_isNaN_left hc hs _

/-- A one-pole update with a coefficient in [0, 1] keeps within 1 what it does not make a NaN. -/
theorem sampleOk_onePole (hk : Within 0 k one) (hx : SampleOk x) (hs : SampleOk s) : SampleOk (onePole c k x s) := by
  obtain hx | hx := hx
  · exact .inl (isNaN_onePole_of_input hc hx)
  · obtain hs | hs := hs
    · exact .inl (isNaN_onePole_of_state hc hs)
    · exact .inr (absLe_onePole hc powerBound_one hk hx hs)

theorem sampleOk_mul (hx : SampleOk x) (hy : UnitMagnitude y) : SampleOk (c.mul x y) := by
  obtain hx | hx := hx
  · exact .inl (isNaN_mul_of_isNaN_left hc hx y)
  · exact .inr (absLe_mul_unit hc (by decide) hx hy)

end

theorem sampleOk_driveStage {c : Config Num32} (hw : ConfigWf c) {dg : Num32} (hdg : F32.le one dg = true) (x : Num32) :
    SampleOk (driveStage c dg x) := by
  cases hx : F32.isNaN x with
  | true => exact .inl (isNaN_driveStage hw hx dg)
  | false => exact .inr (unitMagnitude_driveStage hw hdg hx)

/-! ### The master stage, whatever enters (43_master_bus.md R195 to R203) -/

/-- Both filter states are bounded or no numbers. -/
abbrev FiltersOk (mb : MasterBus Num32) : Prop := SampleOk mb.lpL ∧ SampleOk mb.lpR

section
variable {c : Config Num32} (hw : ConfigWf c) {snap : Bank Num32} (hb : BankOk c snap)
include hw

theorem filtersOk_clearedBus : FiltersOk (clearedBus c) := by
  obtain ⟨-, hleft, hright⟩ := busClean_clearedBus hw
  exact ⟨.inr hleft, .inr hright⟩

theorem sampleOk_of_mem_frameOf {mb : MasterBus Num32} (h : FiltersOk mb) {x : Num32} (hx : x ∈ frameOf c mb) :
    SampleOk x := by
  obtain rfl | rfl | rfl := mem_frameOf c mb hx
  · exact h.1
  · exact h.2
  · rw [zero_eq hw.binary32]
    exact .inr (by decide)

include hb

theorem one_le_masterDriveGain : F32.le one (masterDriveGain c snap) = true := by
  have hlit : c.lit 64 10 = 0x40CCCCCD := by rw [lit_eq hw.binary32]; decide +kernel
  rw [masterDriveGain, one_eq hw.binary32]
  exact (driveGain_range hw.binary32 (by rw [hlit]; decide) (by rw [hlit]; decide)
    (inUnit_regRead hw hb (id := gDrive) (by simp))).1

/-- Whatever the mono sum and the tracker are, the sample after the drive stage is bounded or no number. -/
theorem sampleOk_mixedSample (mb : MasterBus Num32) (mono : Num32) : SampleOk (mixedSample c snap mb mono) :=
  sampleOk_driveStage hw (one_le_masterDriveGain hw hb) _

/-- Both master tone coefficients lie in [0, 1] (R197). -/
theorem within_masterTone :
    Within 0 (c.mtoneCoefL (regRead snap gTone)) one ∧ Within 0 (c.mtoneCoefR (regRead snap gTone)) one := by
  have htone := inUnit_regRead hw hb (id := gTone) (by simp)
  obtain ⟨hlo, hhi⟩ := hw.mtone_left _ htone
  obtain ⟨hpos, hlt⟩ := hw.mtone_right _ htone
  exact ⟨⟨F32.le_trans (by decide +kernel) hlo, F32.le_trans hhi (by decide +kernel)⟩,
    F32.le_of_lt hpos, F32.le_of_lt hlt⟩

theorem filtersOk_busFiltered (mono : Num32) {mb : MasterBus Num32} (h : FiltersOk mb) :
    FiltersOk (busFiltered c snap mono mb) := by
  have hc := hw.binary32
  obtain ⟨hleft, hright⟩ := h
  obtain ⟨hcoefL, hcoefR⟩ := within_masterTone hw hb
  have hmixed := sampleOk_mixedSample hw hb mb mono
  have hlit : UnitMagnitude (c.lit 997 1000) := by rw [lit_eq hc]; decide +kernel
  exact ⟨sampleOk_onePole hc hcoefL hmixed hleft, sampleOk_onePole hc hcoefR (sampleOk_mul hc hmixed hlit) hright⟩

theorem filtersOk_masterStep (mono : Num32) (any : Bool) {mb : MasterBus Num32} (h : FiltersOk mb) :
    FiltersOk (masterStep c snap mono any mb) := by
  cases hs : nearSilent c any (mixedSample c snap mb mono) with
  | true => rw [masterStep_of_nearSilent hs]; exact filtersOk_clearedBus hw
  | false => rw [masterStep_of_not_nearSilent hs]; exact filtersOk_busFiltered hw hb mono h

end

/-- A tick keeps the output bounded, whatever the pool gives (R203). -/
theorem OutputBounded.tick {c : Config Num32} (hw : ConfigWf c) (sr : BitVec 32) {s : State} (hb : BankOk c s.snap)
    (h : OutputBounded s) : OutputBounded (Machine.tick c sr s) := by
  have hbus : FiltersOk (busAfter c s.snap sr s.voices s.mb) := filtersOk_masterStep hw hb _ _ ⟨h.left, h.right⟩
  rw [← tick_mb] at hbus
  refine ⟨hbus.1, hbus.2, fun f hf x hx => ?_⟩
  rw [tick_frames, ← tick_mb, List.mem_append, List.mem_singleton] at hf
  obtain hold | rfl := hf
  · exact h.emitted f hold x hx
  · exact sampleOk_of_mem_frameOf hw hbus hx

/-- Settles O49: the filters are convex combinations, which no rounding takes beyond 1, and what enters them comes out of
`tanh`; with a clean bus the drive stage's operand is a number. -/
theorem outputStaysBounded : Obligations.OutputStaysBounded := fun _ sr _ hw hb =>
  ⟨OutputBounded.tick hw sr hb, OutputClean.tick hw hb⟩

/-! ### The output under every command (43_master_bus.md R203) -/

theorem OutputBounded.ticks {c : Config Num32} (hw : ConfigWf c) (sr : BitVec 32) (n : Nat) {s : State}
    (hb : BankOk c s.snap) (h : OutputBounded s) : OutputBounded (Machine.ticks c sr n s) := by
  induction n generalizing s with
  | zero => exact h
  | succ n ih => exact ih (by rwa [tick_snap]) (h.tick hw sr hb)

/-- With no active record a tick starts none. -/
theorem active_tick_of_free {c : Config Num32} {sr : BitVec 32} {s : State}
    (hfree : ∀ i : Fin 32, (voiceAt s.voices i).active = false) (i : Fin 32) :
    (voiceAt (Machine.tick c sr s).voices i).active = false := by
  rw [tick_voices, voicesAfter_get, voiceStep_of_free (lifeState_eq_free_iff.2 (hfree i))]
  exact hfree i

/-- With no active record nothing is summed, so a clean output stays clean. -/
theorem OutputClean.ticks_of_free {c : Config Num32} (hw : ConfigWf c) (sr : BitVec 32) (n : Nat) {s : State}
    (hb : BankOk c s.snap) (hfree : ∀ i : Fin 32, (voiceAt s.voices i).active = false) (h : OutputClean s) :
    OutputClean (Machine.ticks c sr n s) := by
  induction n generalizing s with
  | zero => exact h
  | succ n ih =>
    have hsilent : ∀ (i : Fin 32) (y : Num32), (voiceStep c s.snap sr (voiceAt s.voices i)).out = some y →
        UnitMagnitude y := by
      intro i y hy
      rw [voiceStep_of_free (lifeState_eq_free_iff.2 (hfree i))] at hy
      cases hy
    exact ih (by rwa [tick_snap]) (active_tick_of_free hfree) (h.tick hw hb hsilent)

/-- What a command does to the output: a render appends to it, and any other emits nothing and leaves the bus as it is or
clears it. -/
theorem CommandEffect.output_cases {c : Config Num32} {s t : State} (h : CommandEffect c s t) :
    (t.frames = s.frames ∧ (t.mb = s.mb ∨ t.mb = clearedBus c)) ∨ ∃ sr n, t = ticks c sr n s := by
  cases h with
  | nothing | trig dt vel off | dbghit dt => exact .inl ⟨rfl, .inl rfl⟩
  | prepare mb sr => exact .inl ⟨rfl, .inr rfl⟩
  | setp pid val => rw [setParam_frame]; exact .inl ⟨rfl, .inl rfl⟩
  | getp p pid => exact .inl ⟨respond_frames p _ s, .inl (respond_mb p _ s)⟩
  | snap =>
    obtain ⟨hmb, hframes⟩ := snapState_output c s
    exact .inl ⟨hframes, .inl hmb⟩
  | render sr n _ => exact .inr ⟨sr, n, rfl⟩

theorem CommandEffect.outputBounded {c : Config Num32} (hw : ConfigWf c) {s t : State} (heff : CommandEffect c s t)
    (hb : BankOk c s.snap) (h : OutputBounded s) : OutputBounded t := by
  obtain ⟨hframes, hmb⟩ | ⟨sr, n, rfl⟩ := heff.output_cases
  · have hfilters : FiltersOk t.mb := by
      obtain hmb | hmb := hmb
      · rw [hmb]; exact ⟨h.left, h.right⟩
      · rw [hmb]; exact filtersOk_clearedBus hw
    exact ⟨hfilters.1, hfilters.2, by rw [hframes]; exact h.emitted⟩
  · exact h.ticks hw sr n hb

theorem CommandEffect.outputClean_of_free {c : Config Num32} (hw : ConfigWf c) {s t : State}
    (heff : CommandEffect c s t) (hb : BankOk c s.snap) (hfree : ∀ i : Fin 32, (voiceAt s.voices i).active = false)
    (h : OutputClean s) : OutputClean t := by
  obtain ⟨hframes, hmb⟩ | ⟨sr, n, rfl⟩ := heff.output_cases
  · refine ⟨?_, by rw [hframes]; exact h.emitted⟩
    obtain hmb | hmb := hmb
    · rw [hmb]; exact h.bus
    · rw [hmb]; exact busClean_clearedBus hw
  · exact h.ticks_of_free hw sr n hb hfree

/-- Settles O56: the words of a step are taken without touching the output, and its command keeps the bounds. -/
theorem stepKeepsOutputBounded : Obligations.StepKeepsOutputBounded := by
  intro s t hinv hstep
  obtain ⟨p, rest, heff⟩ := step_effect hstep
  exact ⟨fun h => heff.outputBounded cfg_wf hinv.snapshot ⟨h.left, h.right, h.emitted⟩,
    fun h hfree => heff.outputClean_of_free cfg_wf hinv.snapshot hfree ⟨h.bus, h.emitted⟩⟩

end Sys2Proof.Machine

/-! ### Host commands on parameters and debug hits (44_host_commands.md R210, R213, R215, R219) -/

namespace Sys2Proof.Machine

/-- Settles O12: both end in `ignored`. -/
theorem nopAndReservedChangeNothing : Obligations.NopAndReservedChangeNothing := fun s =>
  ⟨congrArg _ (ignored_eq s), fun _ _ => congrArg _ (ignored_eq s)⟩

theorem exec_setp (pid : BitVec 6) (val : Word) (s : State) :
    exec (.setp pid val) s = .next (setParam cfg pid val s) := rfl

theorem setParam_of_nan {c : Config Num32} (hc : c.num = F32.format) {val : Word} (hval : F32.isNaN val = true)
    (pid : BitVec 6) (s : State) : setParam c pid val s = s := by
  have hnone : ∀ id, paramValue c id (numOfBits c val) = none := fun id => by
    rw [paramValue, numOfBits, hc]
    exact if_pos hval
  cases hreg : regOf pid <;> simp [setParam, hreg, hnone]

theorem setParam_of_unknown {pid : BitVec 6} (h : 46 ≤ pid.toNat) (c : Config Num32) (val : Word) (s : State) :
    setParam c pid val s = s := by
  simp [setParam, regOf_eq_none h]

theorem writePsh_writePsh (id : Fin 46) (x : Num32) (s : State) :
    writePsh id x (writePsh id x s) = writePsh id x s := by
  simp [writePsh]

/-- What a `SETP` stores does not depend on what it finds, so a second one changes nothing (44_host_commands.md R214). -/
theorem setParam_setParam (c : Config Num32) (pid : BitVec 6) (val : Word) (s : State) :
    setParam c pid val (setParam c pid val s) = setParam c pid val s := by
  obtain hnone | ⟨id, x, hwrite⟩ := setParam_uniform c pid val
  · rw [hnone, hnone]
  · rw [hwrite, hwrite, writePsh_writePsh]

/-- Settles O15: what is stored is the clamp of the operand into a range that is not empty. -/
theorem setpStoresClampedValue : Obligations.SetpStoresClampedValue := by
  intro s pid val
  refine ⟨fun h hval => ?_, fun hval => ?_, fun h => ?_, fun t ht => ?_⟩
  · have hrange := pspec_lo_le_hi cfg_wf ⟨pid.toNat, h⟩
    refine ⟨_, ?_, within_clamp (c := cfg) rfl hrange val, clamp_of_within rfl, clamp_of_below rfl hrange,
      clamp_of_above rfl hrange⟩
    rw [exec_setp, setParam_of_not_nan rfl h hval]
    rfl
  · rw [exec_setp, setParam_of_nan rfl hval]
  · rw [exec_setp, setParam_of_unknown h]
  · rw [exec_setp] at ht
    cases ht
    rw [exec_setp, setParam_setParam]

/-- `GETP` answers zero where an id names no register (44_host_commands.md R215). -/
theorem paramWord_of_unknown {pid : BitVec 6} (h : 46 ≤ pid.toNat) (c : Config Num32) (s : State) :
    paramWord c pid s = 0 := by
  simp [paramWord, regOf_eq_none h]

/-- The word that `GETP` answers under binary32, written out. -/
theorem paramWord_eq_dite {c : Config Num32} (hc : c.num = F32.format) (pid : BitVec 6) (s : State) :
    paramWord c pid s =
      if h : pid.toNat < 46 then (if F32.isNaN s.psh[pid.toNat] then 0x7FC00000 else s.psh[pid.toNat]) else 0 := by
  split
  · rename_i h
    rw [paramWord_eq h, numToBits, hc]
    rfl
  · rename_i h
    exact paramWord_of_unknown (Nat.not_lt.1 h) c s

theorem exec_getp_of_port {s : State} {p : Port} (h : s.port = p) (pid : BitVec 6) :
    exec (.getp pid) s = .next (respond p (paramWord cfg pid s) s) := by
  subst h
  rfl

/-- Settles O16: the word is `paramWord`, and a register in its range is a number, which goes out as it is. -/
theorem getpAnswersShadowRegister : Obligations.GetpAnswersShadowRegister := by
  intro s pid w
  have hw : paramWord cfg pid s = w := paramWord_eq_dite rfl pid s
  refine ⟨fun hp => ?_, fun hp => ?_, fun h hin => ?_⟩
  · rw [exec_getp_of_port hp, hw]
    rfl
  · rw [exec_getp_of_port hp, hw]
    rfl
  · obtain ⟨-, hnum, -⟩ := F32.le_iff.1 hin.1
    have hreg : w = s.psh[pid.toNat] := by
      rw [← hw, paramWord_eq h]
      exact numToBits_of_not_nan rfl hnum
    rw [hreg]
    exact ⟨hin, hnum⟩

theorem drumCode_toNat_inj {j k : DrumType} : (drumCode j).toNat = (drumCode k).toNat ↔ j = k := by
  refine ⟨fun h => ?_, fun h => h ▸ rfl⟩
  rw [← Laws.drumOfCode_drumCode j, ← Laws.drumOfCode_drumCode k, BitVec.eq_of_toNat_eq h]

/-- The types have different codes, so a hit sets the bit of its own type (20_memory.md R73). -/
theorem hitPending_setHit (mask : BitVec 8) (dt k : DrumType) :
    hitPending (setHit mask dt) k = (decide (k = dt) || hitPending mask k) := by
  have hbit : (1#8 <<< (drumCode dt).toNat).getLsbD (drumCode k).toNat = decide (k = dt) := by
    have hcode := (drumCode k).isLt
    rw [Bool.eq_iff_iff, decide_eq_true_iff, ← drumCode_toNat_inj, BitVec.getLsbD_shiftLeft]
    simp only [BitVec.getLsbD_one, Nat.ofNat_pos, decide_true, Bool.true_and, Bool.and_eq_true, decide_eq_true_eq,
      Bool.not_eq_eq_eq_not, Bool.not_true, decide_eq_false_iff_not, not_lt]
    omega
  rw [hitPending, setHit, BitVec.getLsbD_or, hbit, Bool.or_comm, hitPending]

theorem setHit_setHit (mask : BitVec 8) (dt : DrumType) : setHit (setHit mask dt) dt = setHit mask dt := by
  rw [setHit, setHit, BitVec.or_assoc, BitVec.or_self]

/-- Settles O18. -/
theorem dbghitSetsOneBit : Obligations.DbghitSetsOneBit := by
  intro s dt
  refine ⟨rfl, hitPending_setHit s.dbgmask dt, fun t ht => ?_⟩
  have hexec : ∀ u, exec (.dbghit dt) u = .next (setMask (setHit u.dbgmask dt) u) := fun _ => rfl
  rw [hexec] at ht
  cases ht
  rw [hexec, setMask_dbgmask, setHit_setHit]
  rfl

/-! ### A SNAP with no CTL command inside it (44_host_commands.md R217) -/

theorem exec_snap_of_aud {s : State} (h : s.port = .aud) : exec .snap s = .next (snapState cfg s) := onAud_of_aud h _

/-- It latches the whole shadow bank, clears the mask and plays the hits that were pending. -/
theorem snapState_of_noCtlNext {s : State} (h : NoCtlNext s) (c : Config Num32) :
    snapState c s = playHits c (pendingHits s.dbgmask) (setMask 0 (countSnap (latchSnap s.psh s))) := by
  rw [snapState, overlapCtl_of_none (Option.isNone_iff_eq_none.1 h), latched_singleton]
  rfl

theorem playHits_cons (c : Config Num32) (k : DrumType) (hits : List DrumType) (s : State) :
    playHits c (k :: hits) s = playHits c hits (allocate c k (debugVelocity c) 0 s) := rfl

/-- What hits do to the voice file depends on it and on the number of draws taken alone. -/
theorem playHits_voices_congr (c : Config Num32) (hits : List DrumType) {s t : State} (hvoices : s.voices = t.voices)
    (hdraws : s.draws = t.draws) : (playHits c hits s).voices = (playHits c hits t).voices := by
  induction hits generalizing s t with
  | nil => exact hvoices
  | cons k hits ih =>
    rw [playHits_cons, playHits_cons]
    exact ih (by simp only [allocate_eq, hvoices, hdraws]) (by simp only [allocate_eq, hdraws])

theorem debugVelocity_cfg : debugVelocity cfg = F32.lit 95 100 := lit_eq rfl 95 100

/-- Settles O19: the drain touches the voice file and the draws alone, and neither the latch nor the cleared mask nor the
counter of snapshots does. -/
theorem snapCopiesAndDrains : Obligations.SnapCopiesAndDrains := by
  intro s hport hctl
  have hvoices : (playHits cfg (pendingHits s.dbgmask) (setMask 0 (countSnap (latchSnap s.psh s)))).voices =
      (playHits cfg (pendingHits s.dbgmask) s).voices := playHits_voices_congr cfg _ rfl rfl
  refine ⟨(playHits cfg (pendingHits s.dbgmask) s).voices, ?_, by rw [playHits, debugVelocity_cfg, pendingHits]⟩
  rw [exec_snap_of_aud hport, snapState_of_noCtlNext hctl, playHits_frame, hvoices]
  rfl

/-! ### Hits on a pool whose free slots are the upper ones (40_voice_pool.md R111) -/

/-- The active records are those in the lowest `n` slots. -/
def LowestActive (n : Nat) (vs : Vector (Voice Num32) 32) : Prop :=
  ∀ i : Fin 32, (voiceAt vs i).active = decide (i.val < n)

theorem LowestActive.select_eq {n : Nat} {vs : Vector (Voice Num32) 32} (h : LowestActive n vs) (hn : n < 32) :
    select vs = ⟨n, hn⟩ := by
  refine select_eq_of_lowest_free ?_ fun j hj => ?_
  · rw [h, decide_eq_false_iff_not]
    exact lt_irrefl n
  · rw [h, decide_eq_true_iff]
    exact hj

theorem LowestActive.allocate {n : Nat} {s : State} (h : LowestActive n s.voices) (hn : n < 32) (c : Config Num32)
    (dt : DrumType) (vel : Num32) (off : Int) :
    LowestActive (n + 1) (Machine.allocate c dt vel off s).voices := fun i => by
  have hsel := h.select_eq hn
  by_cases hi : i = select s.voices
  · rw [hi, voiceAt_allocate_select, hsel]
    simp [newVoice]
  · have hne : i.val ≠ n := fun heq => hi ((Fin.ext heq).trans hsel.symm)
    rw [voiceAt_allocate_of_ne hi, h i, decide_eq_decide]
    omega

/-- The hits leave the records below the free slots they take, and those above, as they are. -/
theorem voiceAt_playHits_of_outside {c : Config Num32} (hits : List DrumType) {n : Nat} {s : State}
    (h : LowestActive n s.voices) (hn : n + hits.length ≤ 32) {i : Fin 32} (hi : i.val < n ∨ n + hits.length ≤ i.val) :
    voiceAt (playHits c hits s).voices i = voiceAt s.voices i := by
  induction hits generalizing n s with
  | nil => rfl
  | cons k hits ih =>
    rw [List.length_cons] at hn hi
    have hfree : n < 32 := by omega
    have hne : i ≠ select s.voices := by
      rw [h.select_eq hfree]
      rintro rfl
      simp only at hi
      omega
    rw [playHits_cons, ih (h.allocate hfree c k _ 0) (by omega) (by omega), voiceAt_allocate_of_ne hne]

/-- The hits take the free slots upwards, in their order, each with a draw of its own. -/
theorem voiceAt_playHits {c : Config Num32} (hits : List DrumType) {n : Nat} {s : State} (h : LowestActive n s.voices)
    (hn : n + hits.length ≤ 32) {j : Nat} (hj : j < hits.length) {i : Fin 32} (hi : i.val = n + j) :
    voiceAt (playHits c hits s).voices i = newVoice c (c.draw (s.draws + j)) hits[j] (debugVelocity c) 0 := by
  induction hits generalizing n s j with
  | nil => cases hj
  | cons k hits ih =>
    rw [List.length_cons] at hn hj
    have hfree : n < 32 := by omega
    have hnext := h.allocate hfree c k (debugVelocity c) 0
    rw [playHits_cons]
    cases j with
    | zero =>
      have hsel : i = select s.voices := (Fin.ext hi).trans (h.select_eq hfree).symm
      rw [voiceAt_playHits_of_outside hits hnext (by omega) (.inl (by omega)), hsel, voiceAt_allocate_select]
      rfl
    | succ j =>
      rw [ih hnext (by omega) (Nat.lt_of_succ_lt_succ hj) (by omega), allocate_eq, Nat.add_assoc, Nat.add_comm 1 j]
      rfl

theorem length_pendingHits_le (mask : BitVec 8) : (pendingHits mask).length ≤ 8 := List.length_filter_le _ _

/-- The velocity of a debug hit is stored as it is. -/
theorem velocityOf_debugVelocity : velocityOf cfg (debugVelocity cfg) = F32.lit 95 100 := by
  rw [debugVelocity_cfg]
  exact velocityOf_of_inUnit rfl (by decide +kernel) (by decide +kernel)

/-- Settles O20: on an empty pool the lowest free slots are those from 0 up. -/
theorem snapPlaysHitsInTypeOrder : Obligations.SnapPlaysHitsInTypeOrder := by
  intro s hport hctl hempty
  have hlen := length_pendingHits_le s.dbgmask
  have hlow : LowestActive 0 (setMask 0 (countSnap (latchSnap s.psh s))).voices := fun i => by simpa using hempty i
  refine ⟨_, exec_snap_of_aud hport, fun j => ?_⟩
  rw [snapState_of_noCtlNext hctl]
  split
  · rename_i h
    rw [voiceAt_playHits _ hlow (by omega) h (Nat.zero_add _).symm]
    exact ⟨rfl, rfl, velocityOf_debugVelocity, rfl, rfl, zero_eq (c := cfg) rfl⟩
  · exact voiceAt_playHits_of_outside _ hlow (by omega) (.inr (by omega))

/-! ### The snapshot bank between two SNAPs (44_host_commands.md R218) -/

/-- An instruction leaves the snapshot bank unless it is a `SNAP` of AUD. -/
theorem snap_eq_or_snap_of_exec {i : Instr} {s t : State} (h : exec i s = .next t) :
    t.snap = s.snap ∨ i = .snap ∧ s.port = .aud := by
  cases i with
  | nop | dbghit dt | reserved op ignored => cases h; exact .inl rfl
  | setp pid val => cases h; rw [setParam_frame]; exact .inl rfl
  | getp pid => cases h; exact .inl (respond_snap ..)
  | snap =>
    cases hp : s.port with
    | aud => exact .inr ⟨rfl, rfl⟩
    | ctl =>
      have hexec : exec .snap s = .next s := onAud_of_ctl hp _
      rw [hexec] at h
      cases h
      exact .inl rfl
  | prepare mb sr | trig dt off vel =>
    obtain rfl | he := onAud_eq_next h
    · exact .inl rfl
    · cases he; exact .inl rfl
  | render n =>
    obtain rfl | he := onAud_eq_next h
    · exact .inl rfl
    · obtain ⟨sr, -, rfl⟩ := renderState_eq_next he
      rw [ticks_frame]
      exact .inl rfl

/-- Settles O58: a step takes words, which leaves the snapshot bank, and executes one command at most, as the port that
sent it. -/
theorem onlySnapWritesSnapshot : Obligations.OnlySnapWritesSnapshot := by
  intro s t hstep
  cases hf : fetch s with
  | waiting aud ctl =>
    rw [step_of_waiting hf] at hstep
    cases hstep
    exact .inl rfl
  | command p w0 w1 aud ctl rest =>
    rw [step_of_fetch hf] at hstep
    cases hd : decode w0 w1 with
    | illegal op =>
      rw [hd] at hstep
      cases hstep
      exact .inl rfl
    | instr i =>
      rw [hd] at hstep
      obtain hsame | ⟨rfl, rfl⟩ := snap_eq_or_snap_of_exec hstep
      · exact .inl hsame
      · exact .inr ⟨w0, w1, aud, ctl, rest, rfl, hd⟩

end Sys2Proof.Machine

/-! ### A silent bus stays silent (43_master_bus.md R192 to R202, 44_host_commands.md R212) -/

namespace Sys2Proof

theorem F32.abs_of_isZero {x : Num32} (h : F32.isZero x = true) : F32.abs x = 0 := by
  rw [F32.abs, eq_of_beq h]
  rfl

end Sys2Proof

namespace Sys2Proof.Machine

/-- The zeros are the values of magnitude at most 0. -/
theorem absLe_zero_iff {x : Num32} : AbsLe x 0 ↔ F32.isZero x = true := by
  have hkey : F32.key 0 = 0 := by decide
  refine ⟨fun h => ?_, fun h => ?_⟩
  · obtain ⟨-, -, hk⟩ := absLe_iff.1 h
    rw [F32.isZero_iff]
    omega
  · rw [AbsLe, F32.abs_of_isZero h]
    decide

section
variable {c : Config Num32} (hc : c.num = F32.format) {k x y : Num32}
include hc

theorem isZero_add (hx : F32.isZero x = true) (hy : F32.isZero y = true) : F32.isZero (c.add x y) = true :=
  absLe_zero_iff.1 (absLe_add_of hc (by decide) (by decide) (by decide) (absLe_zero_iff.2 hx) (absLe_zero_iff.2 hy))

theorem isZero_sub (hx : F32.isZero x = true) (hy : F32.isZero y = true) : F32.isZero (c.sub x y) = true :=
  absLe_zero_iff.1 (absLe_sub_of hc (by decide) (by decide) (by decide) (absLe_zero_iff.2 hx) (absLe_zero_iff.2 hy))

theorem isZero_mul_of_isFinite_right (hx : F32.isZero x = true) (fk : F32.isFinite k = true) :
    F32.isZero (c.mul x k) = true :=
  isZero_mul hc hx (isNaN_mul hc (F32.isFinite_of_isZero hx) fk)

theorem isZero_mul_of_isFinite_left (fk : F32.isFinite k = true) (hx : F32.isZero x = true) :
    F32.isZero (c.mul k x) = true := by
  rw [mul_eq hc, F32.mul_comm, ← mul_eq hc]
  exact isZero_mul_of_isFinite_right hc hx fk

theorem isZero_onePole (fk : F32.isFinite k = true) (hx : F32.isZero x = true) (hy : F32.isZero y = true) :
    F32.isZero (onePole c k x y) = true :=
  isZero_add hc hy (isZero_mul_of_isFinite_left hc fk (isZero_sub hc hx hy))

end

section
variable {c : Config Num32} (hw : ConfigWf c)
include hw

/-- `tanh` is 0 at both zeros, since it rises. -/
theorem isZero_tanh {x : Num32} (hx : F32.isZero x = true) : F32.isZero (c.tanh x) = true := by
  have hnum : F32.isNaN x = false := F32.isNaN_of_finite (F32.isFinite_of_isZero hx)
  have hkey : F32.key x = F32.key 0 := (F32.isZero_iff.1 hx).trans (by decide)
  have hle := hw.tanh_mono x 0 (F32.le_iff.2 ⟨hnum, by decide, hkey.le⟩)
  have hge := hw.tanh_mono 0 x (F32.le_iff.2 ⟨by decide, hnum, hkey.ge⟩)
  rw [hw.tanh_zero, F32.le_iff] at hle hge
  obtain ⟨-, -, hle⟩ := hle
  obtain ⟨-, -, hge⟩ := hge
  exact F32.isZero_iff.2 (le_antisymm hle hge)

theorem isZero_driveStage {dg x : Num32} (hdg : F32.le one dg = true) (hx : F32.isZero x = true) :
    F32.isZero (driveStage c dg x) = true := by
  have hnum : F32.isNaN x = false := F32.isNaN_of_finite (F32.isFinite_of_isZero hx)
  obtain ⟨hout, -, -⟩ := absLe_iff.1 (unitMagnitude_driveStage hw hdg hnum)
  exact isZero_mul hw.binary32 (isZero_tanh hw hx) hout

theorem isFinite_masterDriveGain {snap : Bank Num32} (hb : BankOk c snap) :
    F32.isFinite (masterDriveGain c snap) = true := by
  have hlit : c.lit 64 10 = 0x40CCCCCD := by rw [lit_eq hw.binary32]; decide +kernel
  rw [masterDriveGain, one_eq hw.binary32]
  exact (driveGain_range hw.binary32 (by rw [hlit]; decide) (by rw [hlit]; decide)
    (inUnit_regRead hw hb (id := gDrive) (by simp))).2

/-- With nothing summed and an empty tracker the sample after the drive stage is a zero, at every parameter setting. -/
theorem isZero_mixedSample {snap : Bank Num32} (hb : BankOk c snap) {mb : MasterBus Num32} {mono : Num32}
    (hpunch : F32.isZero mb.punch = true) (hmono : F32.isZero mono = true) :
    F32.isZero (mixedSample c snap mb mono) = true := by
  have hc := hw.binary32
  have ftrack : F32.isFinite (c.lit 11 100) = true := by rw [lit_eq hc]; decide +kernel
  have femph : F32.isFinite (c.lit 95 100) = true := by rw [lit_eq hc]; decide +kernel
  have flevel : F32.isFinite (c.lit 62 100) = true := by rw [lit_eq hc]; decide +kernel
  have hemph : F32.isZero (emphasised c mono (punchAfter c mb.punch mono)) = true :=
    isZero_add hc hmono (isZero_mul_of_isFinite_left hc femph
      (isZero_sub hc hmono (isZero_onePole hc ftrack hmono hpunch)))
  exact isZero_driveStage hw (one_le_masterDriveGain hw hb)
    (isZero_mul_of_isFinite_right hc (isZero_mul_of_isFinite_right hc hemph flevel) (isFinite_masterDriveGain hw hb))

/-- A zero is below the threshold of the silence reset (R199). -/
theorem lt_silence_of_isZero {x : Num32} (hx : F32.isZero x = true) :
    c.num.lt (c.num.abs x) (c.lit 1 10000000) = true := by
  have hc := hw.binary32
  have habs : c.num.abs x = 0 := by rw [hc]; exact F32.abs_of_isZero hx
  rw [habs, lit_eq hc, hc]
  decide +kernel

end

section
variable {N : Type} (c : Config N) (snap : Bank N) (sr : BitVec 32) {vs : Vector (Voice N) 32}
  (hfree : ∀ i : Fin 32, (voiceAt vs i).active = false)
include hfree

/-- Free records are skipped (40_voice_pool.md R120). -/
theorem voicesAfter_of_free : voicesAfter c snap sr vs = vs := by
  ext1 i hi
  change voiceAt (voicesAfter c snap sr vs) ⟨i, hi⟩ = voiceAt vs ⟨i, hi⟩
  rw [voicesAfter_get, voiceStep_of_free (lifeState_eq_free_iff.2 (hfree _))]

/-- Free records contribute nothing to the mono sum (R124). -/
theorem monoSum_of_free : monoSum c (poolOuts c snap sr vs) = c.zero := by
  have hnone : (poolOuts c snap sr vs).filterMap id = [] := by
    refine List.filterMap_eq_nil_iff.2 fun o ho => ?_
    obtain ⟨i, rfl⟩ := mem_poolOuts.1 ho
    rw [voiceStep_of_free (lifeState_eq_free_iff.2 (hfree i))]
    rfl
  rw [monoSum, hnone]
  rfl

end

section
variable {c : Config Num32} (hw : ConfigWf c) {s : State} (hb : BankOk c s.snap)
  (hfree : ∀ i : Fin 32, (voiceAt s.voices i).active = false) (hmb : s.mb = ⟨0, 0, 0⟩)
include hw hb hfree hmb

/-- With no active record and a clear bus the silence reset fires, and finds the bus as it leaves it. -/
theorem tick_of_silent (sr : BitVec 32) :
    tick c sr s = { s with frames := s.frames ++ [List.replicate c.nch 0] } := by
  have hnone : ∀ i : Fin 32, lifeState (voiceAt s.voices i) ≠ .sounding := fun i => by
    rw [lifeState_eq_free_iff.2 (hfree i)]
    decide
  have hmono : F32.isZero (monoSum c (poolOuts c s.snap sr s.voices)) = true := by
    rw [monoSum_of_free c s.snap sr hfree, zero_eq hw.binary32]
    decide
  have hmixed := isZero_mixedSample hw hb (mb := s.mb) (by rw [hmb]; decide) hmono
  obtain ⟨hbus, hframes⟩ := (silenceResetFiresExactly c sr s).1 hnone (lt_silence_of_isZero hw hmixed)
  rw [zero_eq hw.binary32] at hbus hframes
  have hframe := ticks_frame c sr 1 s
  simp only [ticks, hframes, hbus, ← hmb, tick_voices, voicesAfter_of_free c s.snap sr hfree] at hframe
  exact hframe

theorem ticks_of_silent (sr : BitVec 32) (n : Nat) :
    ticks c sr n s = { s with frames := s.frames ++ List.replicate n (List.replicate c.nch 0) } := by
  induction n generalizing s with
  | zero => simp [ticks]
  | succ n ih =>
    have hrest := ih (s := { s with frames := s.frames ++ [List.replicate c.nch 0] }) hb hfree hmb
    rw [ticks_succ, tick_of_silent hw hb hfree hmb, hrest]
    simp [List.replicate_succ]

end

/-- Settles O45: the render is its ticks, each of them silent. -/
theorem renderAfterPrepareIsSilent : Obligations.RenderAfterPrepareIsSilent := by
  intro s n sr hport hsr hb hfree hmb
  rw [exec_render_of_aud hport, renderState_of_sr hsr, ticks_of_silent cfg_wf hb hfree hmb]

end Sys2Proof.Machine

/-! ### Commands of CTL, and what a step refuses (60_exceptions.md R230, R238, R245) -/

namespace Sys2Proof.Machine

/-- The effect that the model gives a CTL command inside a `SNAP` is the one that `exec` gives it outside (20_memory.md R68,
R70). -/
theorem exec_of_ctl {s : State} (h : s.port = .ctl) (i : Instr) : exec i s = .next (ctlEffect cfg (.instr i) s) := by
  cases i with
  | nop | setp pid val | dbghit dt | reserved op ignored => rfl
  | getp pid => exact exec_getp_of_port h pid
  | prepare mb sr | snap | trig dt off vel | render n => exact onAud_of_ctl h _

/-- Settles O59: the effect is `ctlEffect`, whose frame names the three parts that can change. -/
theorem ctlTouchesOnlyItsState : Obligations.CtlTouchesOnlyItsState := by
  intro s i hport
  exact ⟨exec_of_ctl hport i, _, _, _, (exec_of_ctl hport i).trans (congrArg _ (ctlEffect_frame cfg _ s))⟩

theorem renderState_of_sr_none {c : Config Num32} {s : State} (h : s.sr = none) (n : Nat) :
    renderState c n s = .refused .renderBeforePrepare := by
  rw [renderState, h]

/-- On AUD every instruction but `RENDER` completes, whatever the state (60_exceptions.md R230). -/
theorem exec_next_or_render_of_aud {s : State} (h : s.port = .aud) (i : Instr) :
    (∃ t, exec i s = .next t) ∨ ∃ n, i = .render n := by
  cases i with
  | nop | setp pid val | getp pid | dbghit dt | reserved op ignored => exact .inl ⟨_, rfl⟩
  | prepare mb sr | snap | trig dt off vel => exact .inl ⟨_, onAud_of_aud h _⟩
  | render n => exact .inr ⟨n, rfl⟩

/-- An instruction completes, or it is a `RENDER` of AUD that finds `SR` unwritten (60_exceptions.md R238). -/
theorem exec_next_or_refused (i : Instr) (s : State) :
    (∃ t, exec i s = .next t) ∨
      (exec i s = .refused .renderBeforePrepare ∧ s.sr = none ∧ s.port = .aud ∧ ∃ n, i = .render n) := by
  cases hport : s.port with
  | ctl => exact .inl ⟨_, exec_of_ctl hport i⟩
  | aud =>
    obtain hnext | ⟨n, rfl⟩ := exec_next_or_render_of_aud hport i
    · exact .inl hnext
    · cases hsr : s.sr with
      | none => exact .inr ⟨(exec_render_of_aud hport n).trans (renderState_of_sr_none hsr _), rfl, rfl, n, rfl⟩
      | some sr => exact .inl ⟨_, (exec_render_of_aud hport n).trans (renderState_of_sr hsr _)⟩

/-- Settles O11: waiting and an `ILLEGAL` word have a next state, and taking words leaves `SR` as it was for the
instruction that a command decodes to. -/
theorem stepNeverFaults : Obligations.StepNeverFaults := by
  intro s
  cases hf : fetch s with
  | waiting aud ctl => exact .inl ⟨_, step_of_waiting hf⟩
  | command p w0 w1 aud ctl rest =>
    rw [step_of_fetch hf]
    cases hd : decode w0 w1 with
    | illegal why => exact .inl ⟨_, rfl⟩
    | instr i =>
      obtain hnext | ⟨href, hsr, rfl, n, rfl⟩ := exec_next_or_refused i (takeWords p aud ctl rest s)
      · exact .inl hnext
      · exact .inr ⟨href, hsr, w0, w1, aud, ctl, rest, n, rfl, hd⟩

end Sys2Proof.Machine

/-! ### `RENDER` while `SR` is unwritten (60_exceptions.md R238, 70_reset_and_hazards.md R262) -/

namespace Sys2Proof.Machine

/-- Settles O43: on AUD `RENDER` is `renderState`, which looks at `SR` before it counts ticks, so `RENDER 0` is refused as
well (95_test_vectors.md V54). -/
theorem renderBeforePrepareRefused : Obligations.RenderBeforePrepareRefused := by
  intro s n hport hsr
  calc exec (.render n) s
      _ = renderState cfg n.toNat s := exec_render_of_aud hport n
      _ = .refused .renderBeforePrepare := renderState_of_sr_none hsr n.toNat

end Sys2Proof.Machine
